-- ==== Sys2Proof/Word.lean ====
section
/-! DEFINITION. The plain value types of the block: bytes, bit strings, texts (spec/00_scope.md R8 to R10), the
enumerations of modes, levels, frequencies and channel states (30_encoding.md R96, R104), the command CMD (R97)
and the words of the ports (R98). -/

namespace Sys2Proof

/-- A byte value (R61, R92). -/
abbrev Byte := BitVec 8

/-- A bit string, index 0 the first bit transmitted or detected (R9). -/
abbrev Bits := List Bool

/-- A text: a finite sequence of byte values (R10). -/
abbrev Text := List Byte

/-- The mode selector `Mode` (R1, R22). -/
inductive Mode where
  | level
  | tone
deriving DecidableEq, Repr, Inhabited

/-- A binarized level. In Tone mode `low` is silence and `high` is sound (R23). -/
inductive Lvl where
  | low
  | high
deriving DecidableEq, Repr, Inhabited

/-- A dominant frequency, 600 Hz or 1000 Hz (R24, R172). The code `NONE` of R104 is `Option.none`. -/
inductive Band where
  | f600
  | f1000
deriving DecidableEq, Repr, Inhabited

/-- The channel-state alphabet of R96, code 7 apart, which is reserved. -/
inductive ChanState where
  | idle
  | low
  | high
  | syncGray
  | silence
  | tone600
  | tone1000
deriving DecidableEq, Repr, Inhabited

/-- The command word CMD, field by field (R97). -/
structure Cmd where
  /-- `cmd_valid`: the response carries a command for the actuator. -/
  valid : Bool
  /-- `cmd_state`. -/
  state : ChanState
  /-- `cmd_last`: the closing `IDLE` command. -/
  last : Bool
  /-- `cmd_dur`, milliseconds. -/
  dur : BitVec 32
deriving DecidableEq, Repr

/-- `-> none`: `cmd_valid = 0`, and then every other field is 0 (R97). -/
def Cmd.none : Cmd := ⟨false, .idle, false, 0⟩

/-- `(IDLE, 0, last)`, the closing command (R97, R135). -/
def Cmd.closing : Cmd := ⟨true, .idle, true, 0⟩

/-- A frame command `(state, dur)`: valid and not the last (R135). -/
def Cmd.frame (state : ChanState) (dur : BitVec 32) : Cmd := ⟨true, state, false, dur⟩

/-- A word at one of the block's ports: a request of the M port or of the D port (R98), the reset input (R260),
or a command word leaving the M port for the actuator (R97). -/
inductive PortWord where
  | mreq (w : BitVec 52)
  | dreq (w : BitVec 99)
  | rst (w : BitVec 1)
  | cmd (w : BitVec 37)
deriving DecidableEq, Repr

end Sys2Proof
end

