-- ==== Sys2Proof/Config.lean ====
section
/-! DEFINITION. The parameters of spec/00_scope.md R6 and R7, and the free values. The two OPEN parameters
(TIE_FREQ and PAYLOAD_MAX, 92_eei_decisions.md D8, D31) are fields of `Straps`, which State holds, so that a claim
about every state holds for every value of them; their defaults are R7's. -/

namespace Sys2Proof.Config

/-- START_MARKER (R6, R91). -/
def startMarker : Bits := [true, false, true, false, true, false, true, false]

/-- END_MARKER (R6, R91). -/
def endMarker : Bits := [false, true, false, true, false, true, false, true]

/-- MARKER_LEN (R6). -/
abbrev markerLen : Nat := 8

/-- BYTE_BITS (R6). -/
abbrev byteBits : Nat := 8

/-- PRINT_LO (R6). -/
abbrev printLo : Nat := 1

/-- PRINT_HI (R6). -/
abbrev printHi : Nat := 126

/-- SYNC_NUM (R6). -/
abbrev syncNum : Nat := 3

/-- SYNC_DEN (R6). -/
abbrev syncDen : Nat := 10

/-- THR_NUM (R6). -/
abbrev thrNum : Nat := 255

/-- THR_DEN (R6). -/
abbrev thrDen : Nat := 100

/-- INT_FRAC (R7): fraction bits of an intensity operand. -/
abbrev intFrac : Nat := 8

/-- DEBOUNCE_LEVEL_MS (R6). -/
abbrev debounceLevelMs : Nat := 30

/-- DEBOUNCE_TONE_MS (R6). -/
abbrev debounceToneMs : Nat := 50

/-- HIST_DEPTH (R6). -/
abbrev histDepth : Nat := 20

/-- BUF_MAX (R6). -/
abbrev bufMax : Nat := 2000

/-- BUF_KEEP (R6). -/
abbrev bufKeep : Nat := 1000

/-- LIVE_WIN (R6). -/
abbrev liveWin : Nat := 50

/-- SEARCH_MIN (R6). -/
abbrev searchMin : Nat := 50

/-- PREVIEW_MIN (R6). -/
abbrev previewMin : Nat := 100

/-- PREVIEW_WIN (R6). -/
abbrev previewWin : Nat := 200

/-- SENS_MIN (R6). -/
abbrev sensMin : Nat := 10

/-- SENS_MAX (R6). -/
abbrev sensMax : Nat := 90

/-- BITDUR_LEVEL_MIN and BITDUR_TONE_MIN (R6). -/
def bitdurMin : Mode → Nat
  | .level => 50
  | .tone => 100

/-- BITDUR_LEVEL_MAX and BITDUR_TONE_MAX (R6). -/
def bitdurMax : Mode → Nat
  | .level => 500
  | .tone => 1000

/-- FINAL_MAX (R7). -/
abbrev finalMax : Nat := 248

/-- PREV_MAX (R7). -/
abbrev prevMax : Nat := 24

/-- WS (R7, R202): the byte values that count as whitespace. -/
def whitespace : List Byte := [0x09, 0x0A, 0x0B, 0x0C, 0x0D, 0x20]

/-- The two OPEN parameters. DESIGN CHOICE (log 7, log 8): they are constants of the machine held in State, which no
step writes; safe, since a claim about every state holds for every value. -/
structure Straps where
  /-- TIE_FREQ (R7, R172): the dominant frequency when the two band energies are equal. -/
  tieFreq : Band
  /-- PAYLOAD_MAX (R7, R134), at most 4093: the largest for which m_L and m_k hold their values (D31). -/
  payloadMax : Fin 4094
deriving DecidableEq, Repr

/-- The defaults of R7. -/
def defaultStraps : Straps := ⟨.f600, 248⟩

/-- Free value: d_mode after the RESET with this number (R45: unspecified). DESIGN CHOICE, log 3; safe. -/
opaque resetDMode : Nat → Mode

/-- Free value: d_sens after RESET (R45). DESIGN CHOICE, log 3; safe. -/
opaque resetDSens : Nat → BitVec 7

/-- Free value: d_T after RESET (R45). DESIGN CHOICE, log 3; safe. -/
opaque resetDDur : Nat → BitVec 32

/-- Free value: m_mode after RESET (R45). DESIGN CHOICE, log 3; safe. -/
opaque resetMMode : Nat → Mode

/-- Free value: m_T after RESET (R45). DESIGN CHOICE, log 3; safe. -/
opaque resetMDur : Nat → BitVec 32

end Sys2Proof.Config
end

