-- ==== Sys2Proof/Machine/BitString.lean ====
section
/-! DEFINITION. Bit strings (spec/00_scope.md R9), the byte codec (30_encoding.md R92) and the frame (R90). -/

namespace Sys2Proof.Machine

open Sys2Proof

/-- `sub(s, i, n)`: the n bits from index i (R9). -/
def bitSub (s : Bits) (i n : Nat) : Bits := (s.drop i).take n

/-- `last(s, n)`: the last min(n, len(s)) bits in order (R9). -/
def bitLast (s : Bits) (n : Nat) : Bits := s.drop (s.length - n)

/-- The least position of `pat` in `s`, counted from `idx` at the head of `s`. -/
def bitFindAt (pat : Bits) : Bits → Nat → Option Nat
  | [], idx => if pat = [] then some idx else none
  | b :: s, idx => if pat.isPrefixOf (b :: s) then some idx else bitFindAt pat s (idx + 1)

/-- `find(s, pat, from)`: the least index at or after `start` where `pat` stands in `s`, or NONE (R9, R200). -/
def bitFind (s pat : Bits) (start : Nat) : Option Nat :=
  if start ≤ s.length then bitFindAt pat (s.drop start) start else none

/-- `Bits8(v)`: the bits of a byte, most significant first (R92). -/
def bits8 (v : Byte) : Bits :=
  [v.getLsbD 7, v.getLsbD 6, v.getLsbD 5, v.getLsbD 4, v.getLsbD 3, v.getLsbD 2, v.getLsbD 1, v.getLsbD 0]

/-- The number a bit string spells, its first bit the most significant. -/
def bitsVal (g : Bits) : Nat := g.foldl (fun acc b => 2 * acc + b.toNat) 0

/-- `Val8(g)` as a byte, for a bit string of length 8 (R92). -/
def val8 (g : Bits) : Byte := BitVec.ofNat 8 (bitsVal g)

/-- `Frame(p)`: start marker, the payload bytes most significant bit first, end marker (R90). -/
def frameOf (p : List Byte) : Bits :=
  Config.startMarker ++ p.flatMap bits8 ++ Config.endMarker

end Sys2Proof.Machine
end

