-- ==== Sys2Proof/Syntax.lean ====
section
/-! DEFINITION. The operations: one constructor per row of spec/opcode_table.json. Fields an operation ignores
(30_encoding.md R98, R108) are no operands. -/

namespace Sys2Proof

/-- The operations of the two ports (R99, R100), RESET (R260) and the seven command words (R96, R97). -/
inductive Instr where
  /-- M_NOP (R137). -/
  | mNop
  /-- M_START (R134): mode, payload length in bytes, bit duration in ms; the payload is PAY[0 .. n−1] (R61). -/
  | mStart (mode : Mode) (n : BitVec 16) (t : BitVec 32)
  /-- M_STEP (R135). -/
  | mStep
  /-- M_CANCEL (R136). -/
  | mCancel
  /-- M_RESERVED: op 4 .. 7 on the M port (R108, R137). -/
  | mReserved (op : BitVec 3)
  /-- D_NOP (R152). -/
  | dNop
  /-- D_START (R150): mode, sensitivity in percent, bit duration in ms. -/
  | dStart (mode : Mode) (sens : BitVec 7) (t : BitVec 32)
  /-- D_SAMPLE (R170): timestamp in ms, the two intensity operands (R105). -/
  | dSample (ts : BitVec 64) (a b : BitVec 16)
  /-- D_STOP (R151). -/
  | dStop
  /-- D_RESERVED: op 4 .. 7 on the D port (R108, R152). -/
  | dReserved (op : BitVec 3)
  /-- RESET: the `rst` input asserted (R260). -/
  | reset
  /-- CMD_IDLE: the closing idle command (R135); its duration field, 0 in every word the block produces (R97). -/
  | cmdIdle (dur : BitVec 32)
  /-- CMD_LOW (R132). -/
  | cmdLow (dur : BitVec 32)
  /-- CMD_HIGH (R132). -/
  | cmdHigh (dur : BitVec 32)
  /-- CMD_SYNC_GRAY (R132). -/
  | cmdSyncGray (dur : BitVec 32)
  /-- CMD_TONE600 (R133). -/
  | cmdTone600 (dur : BitVec 32)
  /-- CMD_TONE1000 (R133). -/
  | cmdTone1000 (dur : BitVec 32)
  /-- CMD_NONE: no command in this response (R97). -/
  | cmdNone
deriving DecidableEq, Repr

end Sys2Proof
end

