-- ==== Sys2Proof/WellFormed.lean ====
section
/-! DEFINITION. Which terms of Instr are operations of the table: a reserved operation carries a reserved
operation code (30_encoding.md R99, R100, R108). Every other operand fills its field exactly. -/

namespace Sys2Proof

/-- An operation code of R99 and R100 that is reserved: 4 .. 7. -/
def reservedOp (op : BitVec 3) : Bool := op.getLsbD 2

/-- The checks of well-formedness: one for each reserved row. -/
def Instr.wf : Instr → Bool
  | .mReserved op => reservedOp op
  | .dReserved op => reservedOp op
  | .mNop | .mStart .. | .mStep | .mCancel => true
  | .dNop | .dStart .. | .dSample .. | .dStop => true
  | .reset => true
  | .cmdIdle _ | .cmdLow _ | .cmdHigh _ | .cmdSyncGray _ | .cmdTone600 _ | .cmdTone1000 _ | .cmdNone => true

/-- A well-formed operation. -/
abbrev Instr.WellFormed (i : Instr) : Prop := i.wf = true

end Sys2Proof
end

