-- ==== Sys2Proof/Decode.lean ====
section
/-! DEFINITION. The codes of spec/30_encoding.md R96 and R104 that stand in words, the decoder of the four kinds of
port word (R97 to R100, R108, R260), total, rejecting by name, and after it the encoder, from the same tables.
`decodeTableWord` is the host's way in: the port of a word is told by its length (R109). -/

namespace Sys2Proof

/-- The mode bit: 0 = Level, 1 = Tone (R104). -/
def Mode.ofBit : Bool → Mode
  | false => .level
  | true => .tone

/-- The code of a mode (R104). -/
def Mode.code : Mode → BitVec 1
  | .level => 0
  | .tone => 1

/-- The 3-bit code of a channel state (R96). -/
def ChanState.code : ChanState → BitVec 3
  | .idle => 0
  | .low => 1
  | .high => 2
  | .syncGray => 3
  | .silence => 4
  | .tone600 => 5
  | .tone1000 => 6

/-- The channel state of a 3-bit code; code 7 is reserved (R96). -/
def ChanState.ofCode (c : BitVec 3) : Option ChanState :=
  if c = 0 then some .idle
  else if c = 1 then some .low
  else if c = 2 then some .high
  else if c = 3 then some .syncGray
  else if c = 4 then some .silence
  else if c = 5 then some .tone600
  else if c = 6 then some .tone1000
  else none

/-- The 37 bits of CMD: `cmd_valid` at 0, `cmd_state` at 3:1, `cmd_last` at 4, `cmd_dur` at 36:5 (R97). -/
def Cmd.word (c : Cmd) : BitVec 37 :=
  c.dur ++ BitVec.ofBool c.last ++ c.state.code ++ BitVec.ofBool c.valid

/-- The valid command a CMD word carries, field by field (R97). -/
def Cmd.ofWord (w : BitVec 37) : Option Cmd :=
  if w.getLsbD 0 then
    (ChanState.ofCode (w.extractLsb' 1 3)).map (fun st => ⟨true, st, w.getLsbD 4, w.extractLsb' 5 32⟩)
  else none

/-- Why a port word is no operation. -/
inductive DecodeError where
  /-- The reset input is not asserted: `rst = 0` requests nothing (R260). -/
  | rstLow
  /-- A CMD word with `cmd_valid = 0` and another field not 0 (R97: the other fields are then 0). -/
  | cmdFieldsWithoutValid
  /-- A valid CMD word whose `cmd_state` and `cmd_last` no response has (R96, R108: never produced). -/
  | cmdNeverProduced
deriving DecidableEq, Repr

/-- The M port (R98, R99): op in bits 2:0, mode 3, N 19:4, T 51:20; op 4 .. 7 reserved (R108). -/
def decodeM (w : BitVec 52) : Instr :=
  let op := w.extractLsb' 0 3
  if op = 0 then .mNop
  else if op = 1 then .mStart (Mode.ofBit (w.getLsbD 3)) (w.extractLsb' 4 16) (w.extractLsb' 20 32)
  else if op = 2 then .mStep
  else if op = 3 then .mCancel
  else .mReserved op

/-- The D port (R98, R100): op in bits 2:0; D-CFG mode 3, sens 10:4, T 42:11; D-SMP a 18:3, b 34:19, ts 98:35. -/
def decodeD (w : BitVec 99) : Instr :=
  let op := w.extractLsb' 0 3
  if op = 0 then .dNop
  else if op = 1 then .dStart (Mode.ofBit (w.getLsbD 3)) (w.extractLsb' 4 7) (w.extractLsb' 11 32)
  else if op = 2 then .dSample (w.extractLsb' 35 64) (w.extractLsb' 3 16) (w.extractLsb' 19 16)
  else if op = 3 then .dStop
  else .dReserved op

/-- A command word (R97): the low five bits say which row, bits 36:5 are the duration. -/
def decodeCmd (w : BitVec 37) : Except DecodeError Instr :=
  let low := w.extractLsb' 0 5
  let dur := w.extractLsb' 5 32
  if w = 0 then .ok .cmdNone
  else if w.getLsbD 0 = false then .error .cmdFieldsWithoutValid
  else if low = 0x11#5 then .ok (.cmdIdle dur)
  else if low = 0x03#5 then .ok (.cmdLow dur)
  else if low = 0x05#5 then .ok (.cmdHigh dur)
  else if low = 0x07#5 then .ok (.cmdSyncGray dur)
  else if low = 0x0B#5 then .ok (.cmdTone600 dur)
  else if low = 0x0D#5 then .ok (.cmdTone1000 dur)
  else .error .cmdNeverProduced

/-- The decoder: total on every word of every port. -/
def decode : PortWord → Except DecodeError Instr
  | .mreq w => .ok (decodeM w)
  | .dreq w => .ok (decodeD w)
  | .rst w => if w = 1 then .ok .reset else .error .rstLow
  | .cmd w => decodeCmd w

/-- An MREQ word from its fields (R98); an operation without operands has 0 in the fields it ignores. -/
def mreqWord (op : BitVec 3) (mode : BitVec 1) (n : BitVec 16) (t : BitVec 32) : PortWord :=
  .mreq (t ++ n ++ mode ++ op)

/-- A DREQ word of format D-CFG (R98). -/
def dcfgWord (op : BitVec 3) (mode : BitVec 1) (sens : BitVec 7) (t : BitVec 32) : PortWord :=
  .dreq ((0 : BitVec 56) ++ t ++ sens ++ mode ++ op)

/-- A DREQ word of format D-SMP (R98). -/
def dsmpWord (op : BitVec 3) (ts : BitVec 64) (a b : BitVec 16) : PortWord :=
  .dreq (ts ++ b ++ a ++ op)

/-- The encoder: the word of an operation, ignored fields 0 (log 13). -/
def encode : Instr → PortWord
  | .mNop => mreqWord 0 0 0 0
  | .mStart mode n t => mreqWord 1 mode.code n t
  | .mStep => mreqWord 2 0 0 0
  | .mCancel => mreqWord 3 0 0 0
  | .mReserved op => mreqWord op 0 0 0
  | .dNop => dcfgWord 0 0 0 0
  | .dStart mode sens t => dcfgWord 1 mode.code sens t
  | .dSample ts a b => dsmpWord 2 ts a b
  | .dStop => dcfgWord 3 0 0 0
  | .dReserved op => dcfgWord op 0 0 0
  | .reset => .rst 1
  | .cmdIdle dur => .cmd (Cmd.word ⟨true, .idle, true, dur⟩)
  | .cmdLow dur => .cmd (Cmd.frame .low dur).word
  | .cmdHigh dur => .cmd (Cmd.frame .high dur).word
  | .cmdSyncGray dur => .cmd (Cmd.frame .syncGray dur).word
  | .cmdTone600 dur => .cmd (Cmd.frame .tone600 dur).word
  | .cmdTone1000 dur => .cmd (Cmd.frame .tone1000 dur).word
  | .cmdNone => .cmd Cmd.none.word

/-- The port word of an opcode-table row's bits. The rows have four lengths: RESET 1, CMD 37, MREQ 52 and DREQ 99
bits, in whole bytes 8, 40, 56 and 104 (R97, R98, R109), so the length names the port. -/
def tablePortWord (nbits w : Nat) : Option PortWord :=
  if nbits ≤ 8 then some (.rst (BitVec.ofNat 1 w))
  else if nbits ≤ 40 then some (.cmd (BitVec.ofNat 37 w))
  else if nbits ≤ 56 then some (.mreq (BitVec.ofNat 52 w))
  else if nbits ≤ 104 then some (.dreq (BitVec.ofNat 99 w))
  else none

/-- The instruction the decoder reads from a table row's bits. -/
def decodeTableWord (nbits w : Nat) : Option Instr :=
  match tablePortWord nbits w with
  | some p => (decode p).toOption
  | none => none

end Sys2Proof
end

