-- ==== Sys2Proof/Machine/State.lean ====
section
/-! DEFINITION. The state of the block (spec/10_state.md), the outputs its ports show, and the inputs still to come,
as plain data; the reasons a step can stop; the state after reset (10_state.md R45, 70_reset_and_hazards.md R260). -/

namespace Sys2Proof.Machine

open Sys2Proof

/-- PAY, the payload memory (20_memory.md R60, R61): (index, byte) pairs in the canonical form of `Memory.wf`. -/
abbrev Memory := List Host.Cell

/-- The session state `d_fsm` (R21). -/
inductive DFsm where
  | idle
  | armed
  | accumulating
  | complete
  | stopped
deriving DecidableEq, Repr

/-- The sequencer state `m_fsm` (R35). -/
inductive MFsm where
  | idle
  | run
  | done
  | cancelled
deriving DecidableEq, Repr

/-- A history record (level, dur, freq) (R26). -/
structure HistRec where
  level : Lvl
  dur : BitVec 64
  freq : Option Band
deriving DecidableEq, Repr

/-- The DEMODULATOR's registers, BUF and HIST (R20 to R31). -/
structure Demod where
  /-- `d_fsm` (R21). -/
  fsm : DFsm
  /-- `d_mode` (R22). -/
  mode : Mode
  /-- `d_sens` (R22), integer percent. -/
  sens : BitVec 7
  /-- `d_T` (R22), milliseconds. -/
  dur : BitVec 32
  /-- `d_level` (R23); `none` is the code NONE. -/
  level : Option Lvl
  /-- `d_freq` (R24); `none` is the code NONE. -/
  freq : Option Band
  /-- `d_tstart` (R25), milliseconds. -/
  tstart : BitVec 64
  /-- HIST (R26), oldest record first. -/
  hist : List HistRec
  /-- BUF (R27), oldest bit first. -/
  buf : Bits
  /-- `d_count` (R28). -/
  count : BitVec 64
  /-- `d_preview` (R29). -/
  preview : Text
  /-- `d_final` (R30). -/
  final : Text
  /-- `d_cfg_err` (R31). -/
  cfgErr : Bool
deriving DecidableEq, Repr

/-- The MODULATOR's registers and FRAME (R35 to R40). -/
structure Modulator where
  /-- `m_fsm` (R35). -/
  fsm : MFsm
  /-- `m_mode` (R36). -/
  mode : Mode
  /-- `m_T` (R36), milliseconds. -/
  dur : BitVec 32
  /-- FRAME (R37), first bit transmitted first. -/
  frame : Bits
  /-- `m_L` (R37), the length of FRAME. -/
  len : BitVec 16
  /-- `m_k` (R38), the index of the next command. -/
  k : BitVec 16
  /-- `m_cancel` (R39). -/
  cancel : Bool
  /-- `m_err` (R40). -/
  err : Bool
deriving DecidableEq, Repr

/-- `DemodResult` (R102). -/
inductive Result where
  | pending
  | partialText (t : Text)
  | complete (t : Text)
deriving DecidableEq, Repr

/-- The M port's response: the command word with m_fsm and m_err after the operation (R97). -/
structure MRsp where
  cmd : Cmd
  fsm : MFsm
  err : Bool
deriving DecidableEq, Repr

/-- The D port's response DRSP, field by field (R101); `text_len` and `text` are those of `result`. -/
structure DRsp where
  result : Result
  levelOut : Option Lvl
  freqOut : Option Band
  liveLen : BitVec 6
  liveBits : BitVec 50
  count : BitVec 64
  fsm : DFsm
  cfgErr : Bool
deriving DecidableEq, Repr

/-- What the actuator was last told to hold: `applyState(state, durationMs)` (R97, R111). -/
structure Hold where
  state : ChanState
  dur : BitVec 32
deriving DecidableEq, Repr

/-- What the outside does next (60_exceptions.md R249). -/
inductive Event where
  /-- A request on the M port (R98). -/
  | mreq (w : BitVec 52)
  /-- A request on the D port (R98). -/
  | dreq (w : BitVec 99)
  /-- The actuator driver applies a command word (R111, APPLY). -/
  | apply (w : BitVec 37)
  /-- The reset input is asserted (R249: at any time; R260). -/
  | assertRst
  /-- The byte source presents another byte at an index of PAY (R61, R73). -/
  | paySet (addr : BitVec 16) (v : Byte)
deriving DecidableEq, Repr

/-- The whole state: the two agents, PAY, the parameters, what the ports showed last, and the inputs to come. -/
structure State where
  /-- The DEMODULATOR's state (R20). -/
  dem : Demod
  /-- The MODULATOR's state (R20). -/
  mod : Modulator
  /-- PAY, held by the byte source (R61; log 5, log 6). -/
  pay : Memory
  /-- The OPEN parameters (R7; log 7, log 8). No step writes them. -/
  straps : Config.Straps
  /-- The M port's latest response since RESET (R97; log 10). -/
  mRsp : Option MRsp
  /-- The D port's latest response since RESET (R101; log 10). -/
  dRsp : Option DRsp
  /-- The valid command the driver received last (R97, R249; log 19). -/
  hand : Option Cmd
  /-- The command the driver applied last (R111; log 9). -/
  act : Option Hold
  /-- The reset input: 1 is an assertion not yet performed (R260; log 12). -/
  rst : BitVec 1
  /-- The events still to come, the next one first (R70; log 1). -/
  inbox : List Event
  /-- The number of the next RESET's free values (R45; log 3, log 4). -/
  free : Nat
deriving DecidableEq, Repr

/-- The block has no fault: no operation can hang or trap (00_scope.md R12, 60_exceptions.md R230), so nothing raises
one and there is no constructor. Safe. -/
inductive Fault where
deriving DecidableEq, Repr

/-- Why the model has no meaning to run. -/
inductive Refusal where
  /-- Raised by an arm of `exec` for an operation that has no meaning yet; there is none. Safe. -/
  | notModelled (mnemonic : String)
  /-- Raised by `step` for a word that is no operation: a CMD word that no response of the M port can be (R97, R108).
  Safe: the block never produces such a word, so no claim about it is lost (log 11). -/
  | notAnOperation (why : DecodeError)
  /-- Raised by `step` when the driver applies a command word that it was not given: not the last valid command the M
  port answered, not the idling of the actuator, not the word of no command. R249 has it in its "assumed never" column,
  and claims say nothing of runs that contain one. Safe (log 19). -/
  | notAnswered
deriving DecidableEq, Repr

/-- What the next step works on: nothing, a word at a port, or a change made by the outside alone. -/
inductive Fetched where
  /-- No event is pending: the block is idle and holds its state (R248). -/
  | nothing
  /-- A port word, and the state it is performed in. -/
  | word (p : PortWord) (s : State)
  /-- The state after an event that is no operation of the block. -/
  | outside (s : State)
  /-- A command the driver applies without having been given it (R249, log 19). -/
  | foreign
deriving DecidableEq, Repr

/-- DetectionState and configuration after reset (R45). The configuration registers `mode`, `sens`, `dur` are
unspecified there: DESIGN CHOICE Level, 0, 0 (log 2); unsafe. -/
def Demod.reset : Demod where
  fsm := .idle
  mode := .level
  sens := 0
  dur := 0
  level := none
  freq := none
  tstart := 0
  hist := []
  buf := []
  count := 0
  preview := []
  final := []
  cfgErr := false

/-- The sequencer after reset (R45). `mode` and `dur` are unspecified there: DESIGN CHOICE Level, 0 (log 2); unsafe. -/
def Modulator.reset : Modulator where
  fsm := .idle
  mode := .level
  dur := 0
  frame := []
  len := 0
  k := 0
  cancel := false
  err := false

/-- The machine right after reset (R45, R260): both agents idle, nothing answered, nothing to come. -/
def State.reset : State where
  dem := .reset
  mod := .reset
  pay := []
  straps := Config.defaultStraps
  mRsp := none
  dRsp := none
  hand := none
  act := none
  rst := 0
  inbox := []
  free := 0

end Sys2Proof.Machine
end

