-- ==== Sys2Proof/Machine/Ops.lean ====
section
/-! DEFINITION. The named operations over PAY, BUF, HIST and the registers that the meanings share (spec/20_memory.md
R61 to R63, 10_state.md R34), the refusal of a start (60_exceptions.md R231, R238: the block's one analogue of an
exception), the responses of the two ports (30_encoding.md R97, R101), and taking the next event. -/

namespace Sys2Proof.Machine

open Sys2Proof

/-! PAY -/

/-- What an index of PAY that the byte source has not filled reads as. DESIGN CHOICE 0 (log 6); unsafe. -/
def Memory.unlisted : Byte := 0

/-- `MemRead(i, 1)` (R61). -/
def Memory.read : Memory → Nat → Byte
  | [], _ => Memory.unlisted
  | (k, v) :: m, i => if i = k then v else Memory.read m i

/-- The byte source presents `v` at index `i` (R61, R73). The block itself never writes PAY. -/
def Memory.write : Memory → Nat → Byte → Memory
  | [], i, v => if v = Memory.unlisted then [] else [(i, v)]
  | (k, w) :: m, i, v =>
    if i < k then (if v = Memory.unlisted then (k, w) :: m else (i, v) :: (k, w) :: m)
    else if i = k then (if v = Memory.unlisted then m else (k, v) :: m)
    else (k, w) :: Memory.write m i v

/-- The canonical form: indices strictly rising, no entry equal to what an unlisted index reads as. -/
def Memory.wf : Memory → Bool
  | [] => true
  | (k, v) :: m => v != Memory.unlisted && m.all (fun c => decide (k < c.1)) && Memory.wf m

/-- The bytes PAY[0 .. n−1], read in ascending order (R61, R131). -/
def payload (m : Memory) (n : Nat) : List Byte := (List.range n).map (Memory.read m)

/-! BUF and HIST -/

/-- `BufAppend(b)`: append, and keep the newest 1000 bits when the length has passed 2000 (R62). -/
def bufAppend (buf : Bits) (b : Bool) : Bits :=
  if (buf ++ [b]).length > Config.bufMax then bitLast (buf ++ [b]) Config.bufKeep else buf ++ [b]

/-- `HistPush(rec)`: append, and drop the oldest records past 20 (R63). -/
def histPush (hist : List HistRec) (r : HistRec) : List HistRec :=
  if (hist ++ [r]).length > Config.histDepth then
    (hist ++ [r]).drop ((hist ++ [r]).length - Config.histDepth)
  else hist ++ [r]

/-- `min(c + 1, 2^64 − 1)`, the increment of d_count (R28, R179). -/
def satInc (c : BitVec 64) : BitVec 64 := if c.toNat + 1 < 2 ^ 64 then c + 1 else BitVec.allOnes 64

/-! The session and the sequencer -/

/-- `Fresh()` (R34): DetectionState at its initial values; d_fsm, the configuration and d_cfg_err are not written. -/
def Demod.fresh (d : Demod) : Demod :=
  { d with level := none, freq := none, tstart := 0, hist := [], buf := [], count := 0, preview := [], final := [] }

/-- A session is active exactly in ARMED, ACCUMULATING and COMPLETE (R21). -/
def DFsm.active : DFsm → Bool
  | .armed | .accumulating | .complete => true
  | .idle | .stopped => false

/-- End the session: the effect of D_STOP (R151), and of D_START before it validates (R150, R238). -/
def Demod.tearDown (d : Demod) : Demod :=
  if d.fsm.active then { d.fresh with fsm := .stopped } else d

/-- End the running sequence before a new M_START, telling the actuator to go idle (R134). -/
def Modulator.tearDown (m : Modulator) : Modulator × Cmd :=
  if m.fsm = .run then ({ m with fsm := .cancelled, cancel := false }, Cmd.closing) else (m, Cmd.none)

/-- `raise BadDemodulatorConfig` (R231 E1, R232): the flag is set and nothing else changes. -/
def Demod.raiseBadConfig (d : Demod) : Demod := { d with cfgErr := true }

/-- `raise BadModulatorStart` (R231 E2, R233): the flag is set and nothing else changes. -/
def Modulator.raiseBadStart (m : Modulator) : Modulator := { m with err := true }

/-! Responses -/

/-- `live_bits` as the 50-bit field: the newest bit at position 0, 0 beyond `live_len` (R32, R101). -/
def liveBits (buf : Bits) : BitVec 50 := BitVec.ofNat 50 (bitsVal (bitLast buf Config.liveWin))

/-- `live_len` (R32, R101). -/
def liveLen (buf : Bits) : BitVec 6 := BitVec.ofNat 6 (min buf.length Config.liveWin)

/-- DRSP with the values the registers have after the operation (R101). -/
def DRsp.of (d : Demod) (r : Result) : DRsp where
  result := r
  levelOut := d.level
  freqOut := d.freq
  liveLen := Machine.liveLen d.buf
  liveBits := Machine.liveBits d.buf
  count := d.count
  fsm := d.fsm
  cfgErr := d.cfgErr

/-- The M port's response with m_fsm and m_err after the operation (R97). -/
def MRsp.of (m : Modulator) (c : Cmd) : MRsp := ⟨c, m.fsm, m.err⟩

/-- The driver receives a command: a valid one is in its hand from then on (R97, R249; log 19). -/
def received (hand : Option Cmd) (c : Cmd) : Option Cmd := if c.valid then some c else hand

/-- An M-port operation ends: the MODULATOR's new state, and the response (R97), which the driver receives. -/
def State.answerM (s : State) (r : Modulator × Cmd) : State :=
  { s with mod := r.1, mRsp := some (MRsp.of r.1 r.2), hand := received s.hand r.2 }

/-- A D-port operation ends: the DEMODULATOR's new state, and the response (R101). -/
def State.answerD (s : State) (r : Demod × Result) : State :=
  { s with dem := r.1, dRsp := some (DRsp.of r.1 r.2) }

/-- The actuator driver applies a command: the actuator holds the state for the duration (R97, R111). -/
def State.applyCmd (s : State) (state : ChanState) (dur : BitVec 32) : State :=
  { s with act := some ⟨state, dur⟩ }

/-- The words the driver applies: the last valid command it received, the word of no command, and the idle command,
with which a platform idles the actuator itself after a RESET (R249, R260; log 19). -/
def State.mayApply (s : State) (w : BitVec 37) : Bool :=
  decide (w = Cmd.none.word) || decide (w = Cmd.closing.word) || decide (s.hand.map Cmd.word = some w)

/-! The next event -/

/-- What the next step works on. An asserted reset input overrides both ports (R260, log 12); otherwise the next event
of the inbox is taken (R70, log 1); with none the block is idle (R248). -/
def fetch (s : State) : Fetched :=
  if s.rst = 1 then .word (.rst s.rst) { s with rst := 0 }
  else
    match s.inbox with
    | [] => .nothing
    | .mreq w :: rest => .word (.mreq w) { s with inbox := rest }
    | .dreq w :: rest => .word (.dreq w) { s with inbox := rest }
    | .apply w :: rest => if s.mayApply w then .word (.cmd w) { s with inbox := rest } else .foreign
    | .assertRst :: rest => .outside { s with inbox := rest, rst := 1 }
    | .paySet i v :: rest => .outside { s with inbox := rest, pay := Memory.write s.pay i.toNat v }

/-- Present a port word so that the very next step performs it (log 1): on the reset input, or as the next event with
the reset input low. A valid command is put into the driver's hand as well (log 19). -/
def State.present (s : State) : PortWord → State
  | .rst w => { s with rst := w }
  | .mreq w => { s with rst := 0, inbox := .mreq w :: s.inbox }
  | .dreq w => { s with rst := 0, inbox := .dreq w :: s.inbox }
  | .cmd w => { s with rst := 0, inbox := .apply w :: s.inbox, hand := (Cmd.ofWord w).or s.hand }

end Sys2Proof.Machine
end

