-- ==== Sys2Proof/Machine/Actuator.lean ====
section
/-! DEFINITION. The seven command words as the actuator driver consumes them: the pseudo-operation APPLY of
spec/30_encoding.md R111, the source's `applyState(state, durationMs)` (R97). No register of the block changes. -/

namespace Sys2Proof.Machine

open Sys2Proof

/-- CMD_IDLE: the actuator goes to the idle state, held until a new sequence starts (R97, R135). -/
def execCmdIdle (dur : BitVec 32) (s : State) : Host.Outcome State Fault Refusal := .next (s.applyCmd .idle dur)

/-- CMD_LOW: data level for bit 0 (R96, R132). -/
def execCmdLow (dur : BitVec 32) (s : State) : Host.Outcome State Fault Refusal := .next (s.applyCmd .low dur)

/-- CMD_HIGH: data level for bit 1 (R96, R132). -/
def execCmdHigh (dur : BitVec 32) (s : State) : Host.Outcome State Fault Refusal := .next (s.applyCmd .high dur)

/-- CMD_SYNC_GRAY: the sync level (R96, R132). -/
def execCmdSyncGray (dur : BitVec 32) (s : State) : Host.Outcome State Fault Refusal :=
  .next (s.applyCmd .syncGray dur)

/-- CMD_TONE600: tone for bit 0 (R96, R133). -/
def execCmdTone600 (dur : BitVec 32) (s : State) : Host.Outcome State Fault Refusal :=
  .next (s.applyCmd .tone600 dur)

/-- CMD_TONE1000: tone for bit 1 (R96, R133). -/
def execCmdTone1000 (dur : BitVec 32) (s : State) : Host.Outcome State Fault Refusal :=
  .next (s.applyCmd .tone1000 dur)

/-- CMD_NONE: the response carries no command; the actuator goes on as it was (R97). -/
def execCmdNone (s : State) : Host.Outcome State Fault Refusal := .next s

end Sys2Proof.Machine
end

