-- ==== Sys2Proof/Machine/Operands.lean ====
section
/-! DEFINITION. Operand assembly: the sample operands and the threshold (spec/30_encoding.md R105, R106, 42_demod_sample.md
R171 to R173), the elapsed time and the debounce (R175), the sync duration (R107). -/

namespace Sys2Proof.Machine

open Sys2Proof

/-- `100·x > 65280·sens`, the exact comparison of an intensity word with the threshold (R106, R173). -/
def aboveThreshold (sens : BitVec 7) (x : BitVec 16) : Bool :=
  decide (Config.thrDen * x.toNat > Config.thrNum * 2 ^ Config.intFrac * sens.toNat)

/-- `max(a, b)` (R172). -/
def maxWord (a b : BitVec 16) : BitVec 16 := if a.toNat < b.toNat then b else a

/-- The dominant frequency in Tone mode: whichever band is larger, TIE_FREQ when they are equal (R172, log 7). -/
def dominant (tie : Band) (a b : BitVec 16) : Band :=
  if a.toNat > b.toNat then .f600 else if b.toNat > a.toNat then .f1000 else tie

/-- HIGH when the intensity is above the threshold, else LOW (R173). -/
def levelOf (sens : BitVec 7) (x : BitVec 16) : Lvl := if aboveThreshold sens x then .high else .low

/-- `Binarize(mode, sens, a, b)`, stage 1 of D_SAMPLE (R171 to R173). -/
def binarize (tie : Band) (mode : Mode) (sens : BitVec 7) (a b : BitVec 16) : Lvl × Option Band :=
  match mode with
  | .level => (levelOf sens a, none)
  | .tone => (levelOf sens (maxWord a b), some (dominant tie a b))

/-- `Debounce(d_mode)` in milliseconds (R22). -/
def debounce : Mode → Nat
  | .level => Config.debounceLevelMs
  | .tone => Config.debounceToneMs

/-- `ts − d_tstart`, saturating at 0 (R175, R242). -/
def elapsed (ts tstart : BitVec 64) : BitVec 64 := if tstart.toNat ≤ ts.toNat then ts - tstart else 0

/-- `SyncDur(T) = floor(3·T / 10)` (R107); it fits 32 bits because it is below T. -/
def syncDur (t : BitVec 32) : BitVec 32 := BitVec.ofNat 32 (Config.syncNum * t.toNat / Config.syncDen)

end Sys2Proof.Machine
end

