-- ==== Sys2Proof/Machine/Flags.lean ====
section
/-! DEFINITION. The conditions that decide the flags d_cfg_err and m_err: the validation of the two start operations
(spec/41_demod_session.md R150, 40_modulator.md R134, 60_exceptions.md R232, R233). -/

namespace Sys2Proof.Machine

open Sys2Proof

/-- `T` lies outside the mode's bit-duration range (R150, R134). -/
def durOutOfRange (mode : Mode) (t : BitVec 32) : Bool :=
  decide (t.toNat < Config.bitdurMin mode) || decide (t.toNat > Config.bitdurMax mode)

/-- The operands of D_START are refused (R150, R232). -/
def badDemodConfig (mode : Mode) (sens : BitVec 7) (t : BitVec 32) : Bool :=
  decide (sens.toNat < Config.sensMin) || decide (sens.toNat > Config.sensMax) || durOutOfRange mode t

/-- The operands of M_START are refused (R134, R233). -/
def badModStart (payloadMax : Nat) (mode : Mode) (n : BitVec 16) (t : BitVec 32) : Bool :=
  decide (n.toNat = 0) || decide (n.toNat > payloadMax) || decide (t.toNat = 0) || durOutOfRange mode t

end Sys2Proof.Machine
end

