-- ==== Sys2Proof/Machine/Modulator.lean ====
section
/-! DEFINITION. The MODULATOR: the command of each index (spec/40_modulator.md R132, R133) and the M-port operations
(R134 to R137). -/

namespace Sys2Proof.Machine

open Sys2Proof

/-- Bit i of a frame. An index past the end, which no loaded sequence reaches, reads as 0: DESIGN CHOICE (log 14). -/
def frameBit (f : Bits) (i : Nat) : Bool := f.getD i false

/-- `Cmd(mode, f, T, k)`, the k-th frame command (R132 Level, R133 Tone). -/
def frameCmd (mode : Mode) (f : Bits) (t : BitVec 32) (k : Nat) : Cmd :=
  match mode with
  | .level =>
    if k % 2 = 0 then Cmd.frame (if frameBit f (k / 2) then .high else .low) t
    else Cmd.frame .syncGray (syncDur t)
  | .tone => Cmd.frame (if frameBit f k then .tone1000 else .tone600) t

/-- `Total`: the number of frame commands of a sequence (R38, R135). -/
def Modulator.total (m : Modulator) : Nat :=
  match m.mode with
  | .level => 2 * m.len.toNat
  | .tone => m.len.toNat

/-- Load a new sequence at its first command (R134). -/
def Modulator.load (m : Modulator) (mode : Mode) (t : BitVec 32) (p : List Byte) : Modulator :=
  { m with
    err := false, mode := mode, dur := t, frame := frameOf p, len := BitVec.ofNat 16 (16 + 8 * p.length),
    k := 0, cancel := false, fsm := .run }

/-- M_START on the sequencer: tear down first, then validate, then load (R134, R238). -/
def Modulator.start (payloadMax : Nat) (pay : Memory) (mode : Mode) (n : BitVec 16) (t : BitVec 32)
    (m : Modulator) : Modulator × Cmd :=
  let td := m.tearDown
  if badModStart payloadMax mode n t then (td.1.raiseBadStart, td.2)
  else (td.1.load mode t (payload pay n.toNat), td.2)

/-- M_STEP on the sequencer: not running, pending cancel, end of the sequence, emission, in that order (R135, R238). -/
def Modulator.step (m : Modulator) : Modulator × Cmd :=
  if m.fsm = .run then
    if m.cancel then ({ m with cancel := false, fsm := .cancelled }, Cmd.closing)
    else if m.k.toNat = m.total then ({ m with fsm := .done }, Cmd.closing)
    else ({ m with k := m.k + 1 }, frameCmd m.mode m.frame m.dur m.k.toNat)
  else (m, Cmd.none)

/-- M_CANCEL on the sequencer: latch the stop signal while running (R136). -/
def Modulator.requestCancel (m : Modulator) : Modulator :=
  if m.fsm = .run then { m with cancel := true } else m

/-- M_NOP (R137). -/
def execMNop (s : State) : Host.Outcome State Fault Refusal := .next (s.answerM (s.mod, Cmd.none))

/-- M_START (R134). -/
def execMStart (mode : Mode) (n : BitVec 16) (t : BitVec 32) (s : State) : Host.Outcome State Fault Refusal :=
  .next (s.answerM (s.mod.start s.straps.payloadMax.val s.pay mode n t))

/-- M_STEP (R135). -/
def execMStep (s : State) : Host.Outcome State Fault Refusal := .next (s.answerM s.mod.step)

/-- M_CANCEL (R136). -/
def execMCancel (s : State) : Host.Outcome State Fault Refusal :=
  .next (s.answerM (s.mod.requestCancel, Cmd.none))

/-- M_RESERVED: performed as M_NOP (R108, R137). -/
def execMReserved (_op : BitVec 3) (s : State) : Host.Outcome State Fault Refusal :=
  .next (s.answerM (s.mod, Cmd.none))

end Sys2Proof.Machine
end

