-- ==== Sys2Proof/Machine/Observe.lean ====
section
/-! DEFINITION. What a host reads without changing state: the codes of spec/30_encoding.md R101 to R104, the views of
10_state.md R32, and the debug read of the register map R43 (60_exceptions.md R247). -/

namespace Sys2Proof.Machine

open Sys2Proof

/-- The code of a DemodResult (R102). -/
def Result.code : Result → BitVec 2
  | .pending => 0
  | .partialText _ => 1
  | .complete _ => 2

/-- The text a result carries; `Pending` carries none (R102). -/
def Result.text : Result → Text
  | .pending => []
  | .partialText t => t
  | .complete t => t

/-- `text_len` of DRSP (R101). -/
def DRsp.textLen (r : DRsp) : BitVec 8 := BitVec.ofNat 8 r.result.text.length

/-- Byte i of `text` of DRSP; the bytes beyond `text_len` are 0 (R101). -/
def DRsp.textByte (r : DRsp) (i : Nat) : Byte := r.result.text.getD i 0

/-- The code of d_fsm (R103). -/
def DFsm.code : DFsm → BitVec 3
  | .idle => 0
  | .armed => 1
  | .accumulating => 2
  | .complete => 3
  | .stopped => 4

/-- The code of m_fsm (R103). -/
def MFsm.code : MFsm → BitVec 2
  | .idle => 0
  | .run => 1
  | .done => 2
  | .cancelled => 3

/-- The 2-bit code of a level register (R104). -/
def levelCode : Option Lvl → BitVec 2
  | none => 0
  | some .low => 1
  | some .high => 2

/-- The 1-bit level code of a history record (R104). -/
def Lvl.recordCode : Lvl → BitVec 1
  | .low => 0
  | .high => 1

/-- The 2-bit code of a frequency (R104). -/
def freqCode : Option Band → BitVec 2
  | none => 0
  | some .f600 => 1
  | some .f1000 => 2

/-- What a debug read answers: a register's value, or a text register's length and bytes (R43; log 16). -/
inductive DebugValue where
  | word (v : Nat)
  | text (len : Nat) (bytes : Text)
deriving DecidableEq, Repr

/-- The debug read of a register by its number (R43, R247); an unused number returns 0. -/
def debugRead (s : State) (i : Nat) : DebugValue :=
  match i with
  | 0 => .word s.dem.fsm.code.toNat
  | 1 => .word s.dem.mode.code.toNat
  | 2 => .word s.dem.sens.toNat
  | 3 => .word s.dem.dur.toNat
  | 4 => .word (levelCode s.dem.level).toNat
  | 5 => .word (freqCode s.dem.freq).toNat
  | 6 => .word s.dem.tstart.toNat
  | 7 => .word s.dem.count.toNat
  | 8 => .word s.dem.buf.length
  | 9 => .word s.dem.hist.length
  | 10 => .text s.dem.preview.length s.dem.preview
  | 11 => .text s.dem.final.length s.dem.final
  | 12 => .word s.dem.cfgErr.toNat
  | 16 => .word s.mod.fsm.code.toNat
  | 17 => .word s.mod.mode.code.toNat
  | 18 => .word s.mod.dur.toNat
  | 19 => .word s.mod.len.toNat
  | 20 => .word s.mod.k.toNat
  | 21 => .word s.mod.cancel.toNat
  | 22 => .word s.mod.err.toNat
  | _ => .word 0

/-- The debug read of a record of HIST, index 0 the oldest (R26, R247). -/
def debugHist (s : State) (i : Nat) : Option HistRec := s.dem.hist[i]?

/-- The debug read of a bit of BUF, index 0 the oldest (R27, R247). -/
def debugBuf (s : State) (i : Nat) : Option Bool := s.dem.buf[i]?

end Sys2Proof.Machine
end

