-- ==== Sys2Proof/Machine/Reset.lean ====
section
/-! DEFINITION. RESET (spec/70_reset_and_hazards.md R260, 10_state.md R45). -/

namespace Sys2Proof.Machine

open Sys2Proof

/-- RESET on the DEMODULATOR: IDLE, `Fresh()`, d_cfg_err 0; the configuration registers hold the free values numbered
`n` (R45: unspecified; log 3). -/
def Demod.afterReset (d : Demod) (n : Nat) : Demod :=
  { d.fresh with
    fsm := .idle, cfgErr := false
    mode := Config.resetDMode n, sens := Config.resetDSens n, dur := Config.resetDDur n }

/-- RESET on the MODULATOR (R260); m_mode and m_T hold the free values numbered `n` (log 3). -/
def Modulator.afterReset (_m : Modulator) (n : Nat) : Modulator where
  fsm := .idle
  mode := Config.resetMMode n
  dur := Config.resetMDur n
  frame := []
  len := 0
  k := 0
  cancel := false
  err := false

/-- RESET (R260): both agents, no response (log 10), no command to the actuator. -/
def execReset (s : State) : Host.Outcome State Fault Refusal :=
  .next { s with
    dem := s.dem.afterReset s.free, mod := s.mod.afterReset s.free
    mRsp := none, dRsp := none, free := s.free + 1 }

end Sys2Proof.Machine
end

