-- ==== Sys2Proof/Machine/FrameDecoder.lean ====
section
/-! DEFINITION. The frame-delimited bit decoder: byte decode, frame search and live preview
(spec/43_frame_decoder.md R200 to R207). -/

namespace Sys2Proof.Machine

open Sys2Proof

/-- A byte value that decodes to a character: 1 .. 126 (R201). -/
def printable (v : Byte) : Bool := decide (Config.printLo ≤ v.toNat) && decide (v.toNat ≤ Config.printHi)

/-- `DecodeBytes(g)`: the printable bytes of the 8-bit groups, the others dropped (R201). Bits after the last whole
group are left out (log 14). -/
def decodeBytes : Bits → Text
  | a :: b :: c :: d :: e :: f :: g :: h :: rest =>
    if printable (val8 [a, b, c, d, e, f, g, h]) then val8 [a, b, c, d, e, f, g, h] :: decodeBytes rest
    else decodeBytes rest
  | _ => []

/-- `NonBlank(t)`: some byte of the text is not whitespace (R202). -/
def nonBlank (t : Text) : Bool := t.any (fun v => !Config.whitespace.contains v)

/-- The interior span's text, if its length is a positive multiple of 8 and its text is not blank (R203). -/
def interiorText (span : Bits) : Option Text :=
  if span.length = 0 ∨ span.length % 8 ≠ 0 then none
  else if nonBlank (decodeBytes span) then some (decodeBytes span)
  else none

/-- `FrameSearch(buf)`: the first start marker, the first end marker beginning at or after its end (R203). -/
def frameSearch (buf : Bits) : Option Text :=
  match bitFind buf Config.startMarker 0 with
  | none => none
  | some s =>
    match bitFind buf Config.endMarker (s + Config.markerLen) with
    | none => none
    | some e => interiorText (bitSub buf (s + Config.markerLen) (e - (s + Config.markerLen)))

/-- `Preview(buf)`: the whole bytes after the first start marker inside the last 200 bits (R205). -/
def previewText (buf : Bits) : Option Text :=
  let w := bitLast buf Config.previewWin
  match bitFind w Config.startMarker 0 with
  | none => none
  | some p =>
    let rest := w.drop (p + Config.markerLen)
    some (decodeBytes (bitSub rest 0 (8 * (rest.length / 8))))

end Sys2Proof.Machine
end

