-- ==== Sys2Proof/Machine/Sample.lean ====
section
/-! DEFINITION. D_SAMPLE and its stages (spec/42_demod_sample.md R170 to R180, 43_frame_decoder.md R204, R206). -/

namespace Sys2Proof.Machine

open Sys2Proof

/-- The level, frequency and start time of a new current-state record (R174, R176). -/
def Demod.begin (d : Demod) (lvl : Lvl) (f : Option Band) (ts : BitVec 64) : Demod :=
  { d with level := some lvl, freq := f, tstart := ts }

/-- Stage 2c, an accepted transition: push the record that ended, begin the new one, leave ARMED (R176). -/
def Demod.accept (d : Demod) (ended : Lvl) (el : BitVec 64) (lvl : Lvl) (f : Option Band) (ts : BitVec 64) : Demod :=
  { d.begin lvl f ts with
    hist := histPush d.hist ⟨ended, el, d.freq⟩
    fsm := if d.fsm = .armed then .accumulating else d.fsm }

/-- `ExtractLevel(HIST)`: the direction between the two newest records (R177). -/
def extractLevel (hist : List HistRec) : Option Bool :=
  match hist.reverse with
  | newest :: prev :: _ =>
    match prev.level, newest.level with
    | .low, .high => some false
    | .high, .low => some true
    | _, _ => none
  | _ => none

/-- `ExtractTone(HIST)`: the frequency of a sound interval that has just ended (R178). -/
def extractTone (hist : List HistRec) : Option Bool :=
  match hist.getLast? with
  | none => none
  | some r =>
    match r.level, r.freq with
    | .high, some .f600 => some false
    | .high, some .f1000 => some true
    | _, _ => none

/-- Stage 3 of D_SAMPLE (R170, R177, R178). -/
def extractBit (mode : Mode) (hist : List HistRec) : Option Bool :=
  match mode with
  | .level => extractLevel hist
  | .tone => extractTone hist

/-- Stage 4, accumulate (R179). -/
def Demod.accumulate (d : Demod) (b : Bool) : Demod :=
  { d with buf := bufAppend d.buf b, count := satInc d.count }

/-- Stage 6, the live preview (R206). -/
def Demod.previewStage (d : Demod) : Demod × Result :=
  if d.buf.length > Config.previewMin then
    match previewText d.buf with
    | none => (d, .pending)
    | some p => if p = d.preview then (d, .pending) else ({ d with preview := p }, .partialText p)
  else (d, .pending)

/-- Stage 5, the frame search, and stage 6 when it does not succeed (R204). -/
def Demod.searchStage (d : Demod) : Demod × Result :=
  if d.buf.length > Config.searchMin then
    match frameSearch d.buf with
    | some t => ({ d with final := t, fsm := .complete }, .complete t)
    | none => d.previewStage
  else d.previewStage

/-- Stages 3 to 6, after an accepted transition (R170). -/
def Demod.bitStage (d : Demod) : Demod × Result :=
  match extractBit d.mode d.hist with
  | none => (d, .pending)
  | some b => (d.accumulate b).searchStage

/-- Stages 1 and 2 of a sample inside a session that has not completed (R170, R174 to R176). -/
def Demod.senseStage (tie : Band) (ts : BitVec 64) (a b : BitVec 16) (d : Demod) : Demod × Result :=
  let bin := binarize tie d.mode d.sens a b
  match d.level with
  | none => (d.begin bin.1 bin.2 ts, .pending)
  | some l =>
    if bin.1 = l then (d, .pending)
    else if (elapsed ts d.tstart).toNat < debounce d.mode then (d, .pending)
    else (d.accept l (elapsed ts d.tstart) bin.1 bin.2 ts).bitStage

/-- D_SAMPLE on the registers (R170). -/
def Demod.sample (tie : Band) (ts : BitVec 64) (a b : BitVec 16) (d : Demod) : Demod × Result :=
  match d.fsm with
  | .complete => (d, .complete d.final)
  | .idle | .stopped => (d, .pending)
  | .armed | .accumulating => d.senseStage tie ts a b

/-- D_SAMPLE (R170). -/
def execDSample (ts : BitVec 64) (a b : BitVec 16) (s : State) : Host.Outcome State Fault Refusal :=
  .next (s.answerD (s.dem.sample s.straps.tieFreq ts a b))

end Sys2Proof.Machine
end

