-- ==== Sys2Proof/Machine/Session.lean ====
section
/-! DEFINITION. The session operations of the DEMODULATOR: D_START, D_STOP, D_NOP and the reserved codes
(spec/41_demod_session.md R150 to R153). -/

namespace Sys2Proof.Machine

open Sys2Proof

/-- Begin a session with a new configuration (R150). -/
def Demod.arm (d : Demod) (mode : Mode) (sens : BitVec 7) (t : BitVec 32) : Demod :=
  { d.fresh with cfgErr := false, mode := mode, sens := sens, dur := t, fsm := .armed }

/-- D_START on the registers: tear down first, then validate, then arm (R150, R238). -/
def Demod.start (mode : Mode) (sens : BitVec 7) (t : BitVec 32) (d : Demod) : Demod :=
  if badDemodConfig mode sens t then d.tearDown.raiseBadConfig else d.tearDown.arm mode sens t

/-- D_NOP (R152). -/
def execDNop (s : State) : Host.Outcome State Fault Refusal := .next (s.answerD (s.dem, .pending))

/-- D_START (R150). -/
def execDStart (mode : Mode) (sens : BitVec 7) (t : BitVec 32) (s : State) : Host.Outcome State Fault Refusal :=
  .next (s.answerD (s.dem.start mode sens t, .pending))

/-- D_STOP (R151). -/
def execDStop (s : State) : Host.Outcome State Fault Refusal := .next (s.answerD (s.dem.tearDown, .pending))

/-- D_RESERVED: performed as D_NOP (R108, R152). -/
def execDReserved (_op : BitVec 3) (s : State) : Host.Outcome State Fault Refusal :=
  .next (s.answerD (s.dem, .pending))

end Sys2Proof.Machine
end

