-- ==== Sys2Proof/Machine/Dispatch.lean ====
section
/-! DEFINITION. The meaning of every operation, one arm per constructor of Instr. -/

namespace Sys2Proof.Machine

open Sys2Proof

def exec (i : Instr) (s : State) : Host.Outcome State Fault Refusal :=
  match i with
  -- the M port (spec/40_modulator.md)
  | .mNop => Sys2Proof.Machine.execMNop s
  | .mStart mode n t => Sys2Proof.Machine.execMStart mode n t s
  | .mStep => Sys2Proof.Machine.execMStep s
  | .mCancel => Sys2Proof.Machine.execMCancel s
  | .mReserved op => Sys2Proof.Machine.execMReserved op s
  -- the D port (spec/41_demod_session.md, 42_demod_sample.md, 43_frame_decoder.md)
  | .dNop => Sys2Proof.Machine.execDNop s
  | .dStart mode sens t => Sys2Proof.Machine.execDStart mode sens t s
  | .dSample ts a b => Sys2Proof.Machine.execDSample ts a b s
  | .dStop => Sys2Proof.Machine.execDStop s
  | .dReserved op => Sys2Proof.Machine.execDReserved op s
  -- the reset input (spec/70_reset_and_hazards.md R260)
  | .reset => Sys2Proof.Machine.execReset s
  -- the command words (spec/30_encoding.md R97, R111)
  | .cmdIdle dur => Sys2Proof.Machine.execCmdIdle dur s
  | .cmdLow dur => Sys2Proof.Machine.execCmdLow dur s
  | .cmdHigh dur => Sys2Proof.Machine.execCmdHigh dur s
  | .cmdSyncGray dur => Sys2Proof.Machine.execCmdSyncGray dur s
  | .cmdTone600 dur => Sys2Proof.Machine.execCmdTone600 dur s
  | .cmdTone1000 dur => Sys2Proof.Machine.execCmdTone1000 dur s
  | .cmdNone => Sys2Proof.Machine.execCmdNone s

end Sys2Proof.Machine
end

