-- ==== Sys2Proof/Machine/Step.lean ====
section
/-! DEFINITION. One step of the block: take the next event (`fetch`, Machine/Ops.lean), decode its word, perform the
operation. -/

namespace Sys2Proof.Machine

open Sys2Proof

/-- One step (spec/20_memory.md R67, R70). -/
def step (s : State) : Host.Outcome State Fault Refusal :=
  match fetch s with
  | .nothing => .next s
  | .outside s' => .next s'
  | .foreign => .refused .notAnswered
  | .word p s' =>
    match decode p with
    | .ok i => exec i s'
    | .error e => .refused (.notAnOperation e)

/-- The state with a table row's word presented so that the next step performs it. -/
def State.withFetchWord (s : State) (nbits w : Nat) : State :=
  match tablePortWord nbits w with
  | some p => s.present p
  | none => s

end Sys2Proof.Machine
end

