-- ==== Sys2Proof/Safety.lean ====
section
/-! DEFINITION. The terms claims are stated in: the port of an operation, runs of operations, the invariants of the two
agents (spec/70_reset_and_hazards.md R280 to R288, 10_state.md), and what counts as a safe run. -/

namespace Sys2Proof

open Sys2Proof.Machine

/-- An operation of the M port (R99). -/
def Instr.onM : Instr → Bool
  | .mNop | .mStart .. | .mStep | .mCancel | .mReserved _ => true
  | .dNop | .dStart .. | .dSample .. | .dStop | .dReserved _ => false
  | .reset => false
  | .cmdIdle _ | .cmdLow _ | .cmdHigh _ | .cmdSyncGray _ | .cmdTone600 _ | .cmdTone1000 _ | .cmdNone => false

/-- An operation of the D port (R100). -/
def Instr.onD : Instr → Bool
  | .mNop | .mStart .. | .mStep | .mCancel | .mReserved _ => false
  | .dNop | .dStart .. | .dSample .. | .dStop | .dReserved _ => true
  | .reset => false
  | .cmdIdle _ | .cmdLow _ | .cmdHigh _ | .cmdSyncGray _ | .cmdTone600 _ | .cmdTone1000 _ | .cmdNone => false

/-- A command word on its way to the actuator (R97). -/
def Instr.isCmd : Instr → Bool
  | .mNop | .mStart .. | .mStep | .mCancel | .mReserved _ => false
  | .dNop | .dStart .. | .dSample .. | .dStop | .dReserved _ => false
  | .reset => false
  | .cmdIdle _ | .cmdLow _ | .cmdHigh _ | .cmdSyncGray _ | .cmdTone600 _ | .cmdTone1000 _ | .cmdNone => true

/-- A valid command the M port answers with: the closing one, or a frame command (R97, R132, R133). -/
abbrev Cmd.answerable (c : Cmd) : Prop :=
  c = Cmd.closing ∨
  (c.valid = true ∧ c.last = false ∧ c.state ∈ [ChanState.low, .high, .syncGray, .tone600, .tone1000])

namespace Machine

/-- The operations of a list performed in order (R70), stopping at the first that does not answer a next state. -/
def execAll : List Instr → State → Host.Outcome State Fault Refusal
  | [], s => .next s
  | i :: is, s =>
    match exec i s with
    | .next s' => execAll is s'
    | .fault f => .fault f
    | .refused r => .refused r

/-- The operations of a list performed in order, with the M port's response after each. -/
def responsesM : List Instr → State → List (Option MRsp)
  | [], _ => []
  | i :: is, s =>
    match exec i s with
    | .next s' => s'.mRsp :: responsesM is s'
    | .fault _ => []
    | .refused _ => []

/-- The last command the actuator received among the responses (R288). -/
def lastCommand (rs : List (Option MRsp)) : Option Cmd :=
  (((rs.filterMap id).map MRsp.cmd).filter Cmd.valid).getLast?

/-! The harness of R287, no part of the block: a Tone-mode frame as a stream of samples -/

/-- One Tone-mode sample: its timestamp, the 600 Hz and the 1000 Hz energy (R105). -/
structure ToneSample where
  ts : BitVec 64
  a : BitVec 16
  b : BitVec 16
deriving DecidableEq, Repr

/-- The operation that feeds the sample. -/
def ToneSample.op (x : ToneSample) : Instr := .dSample x.ts x.a x.b

/-- The sample is a sound: the larger energy is above the threshold (R172, R173). -/
abbrev ToneSample.loud (sens : BitVec 7) (x : ToneSample) : Prop :=
  100 * max x.a.toNat x.b.toNat > 65280 * sens.toNat

/-- How the samples see one tone and the silence after it: the first sample of each, and any further ones. -/
structure ToneSlot where
  sound : ToneSample
  soundMore : List ToneSample
  silence : ToneSample
  silenceMore : List ToneSample
deriving DecidableEq, Repr

/-- The operations that feed the samples of a slot, in order. -/
def ToneSlot.ops (x : ToneSlot) : List Instr :=
  (x.sound :: (x.soundMore ++ x.silence :: x.silenceMore)).map ToneSample.op

/-- The slot presents the bit: the first sample of its sound is of the bit's frequency, every sample of the sound is
above the threshold and every sample of the silence is not, and the silence begins at least 50 ms after the sound. -/
abbrev ToneSlot.presents (sens : BitVec 7) (x : ToneSlot) (bit : Bool) : Prop :=
  (if bit then x.sound.a.toNat < x.sound.b.toNat else x.sound.b.toNat < x.sound.a.toNat) ∧
  x.sound.loud sens ∧ (∀ y ∈ x.soundMore, y.loud sens) ∧
  ¬ x.silence.loud sens ∧ (∀ y ∈ x.silenceMore, ¬ y.loud sens) ∧
  x.sound.ts.toNat + 50 ≤ x.silence.ts.toNat

/-- The second slot's sound begins at least 50 ms after the first one's silence. -/
abbrev ToneSlot.spaced (x y : ToneSlot) : Prop := x.silence.ts.toNat + 50 ≤ y.sound.ts.toNat

/-- A sample is an accepted transition: its level differs from the current one, and at least the debounce time has
passed since that one began (R175). -/
def Demod.accepts (d : Demod) (tie : Band) (ts : BitVec 64) (a b : BitVec 16) : Prop :=
  ∃ l, d.level = some l ∧ (binarize tie d.mode d.sens a b).1 ≠ l ∧ d.tstart.toNat + debounce d.mode ≤ ts.toNat

/-- A configuration D_START accepts (R22, R150). -/
def Demod.configLegal (d : Demod) : Prop := badDemodConfig d.mode d.sens d.dur = false

/-- Neighbouring bits differ (R266). -/
def alternating (b : Bits) : Prop := List.IsChain (fun x y => x ≠ y) b

/-- What every reachable DEMODULATOR state has (R21 to R30, R280 to R282). -/
structure DemodInv (d : Demod) : Prop where
  /-- R281: the history ring never exceeds 20 records. -/
  hist_len : d.hist.length ≤ 20
  /-- R281: consecutive records have different levels. -/
  hist_alternates : List.IsChain (fun x y => x.level ≠ y.level) d.hist
  /-- R176: the current level is never that of the newest record. -/
  hist_newest : ∀ r ∈ d.hist.getLast?, d.level = some r.level → False
  /-- R280: every record lasted at least the debounce time. -/
  hist_debounced : ∀ r ∈ d.hist, debounce d.mode ≤ r.dur.toNat
  /-- R26: a record has a frequency exactly in Tone mode. -/
  hist_freq : ∀ r ∈ d.hist, r.freq.isSome = decide (d.mode = .tone)
  /-- R24: the current interval has a frequency exactly in Tone mode, once primed. -/
  freq_mode : d.freq.isSome = (d.level.isSome && decide (d.mode = .tone))
  /-- R282: BUF never exceeds 2000 bits. -/
  buf_len : d.buf.length ≤ 2000
  /-- R282: until the first truncation BUF holds every detected bit. -/
  buf_count : d.count.toNat ≤ 2000 → d.buf.length = d.count.toNat
  /-- R282: after it at least the newest 1000. -/
  buf_kept : 2000 < d.count.toNat → 1000 ≤ d.buf.length
  /-- R21, R151: no session, no detection state. -/
  outside : d.fsm.active = false → d = d.fresh
  /-- R21: ARMED awaits its first transition. -/
  armed : d.fsm = .armed → d.hist = [] ∧ d.buf = [] ∧ d.count = 0 ∧ d.preview = []
  /-- R23, R153: past ARMED the session has seen a sample and a transition. -/
  primed : d.fsm = .accumulating ∨ d.fsm = .complete → d.level.isSome = true ∧ d.hist ≠ []
  /-- R22: the configuration of a session is legal. -/
  config : d.fsm.active = true → d.configLegal
  /-- R30: the final text is non-empty exactly when the session has completed. -/
  final_complete : d.fsm = .complete ↔ d.final ≠ []
  /-- R30, R64, R203: the final text fits its register, is printable and not blank. -/
  final_text : d.final.length ≤ 248 ∧ (∀ v ∈ d.final, printable v = true) ∧ (d.final ≠ [] → nonBlank d.final = true)
  /-- R29, R64: the preview fits its register and is printable. -/
  preview_text : d.preview.length ≤ 24 ∧ ∀ v ∈ d.preview, printable v = true

/-- What a Level-mode session keeps besides (R266): its bits alternate, the newest bit is the direction between the two
newest records, and it neither completes nor shows a preview. -/
structure LevelInv (d : Demod) : Prop where
  not_complete : d.fsm ≠ .complete
  no_preview : d.preview = []
  bits_alternate : alternating d.buf
  newest_bit : d.buf.getLast? = if 2 ≤ d.hist.length then d.hist.getLast?.map (fun r => decide (r.level = .low)) else none

/-- What every reachable MODULATOR state has (R35 to R39, R285). -/
structure ModInv (payloadMax : Nat) (m : Modulator) : Prop where
  /-- R37: m_L is the length of FRAME. -/
  frame_len : m.frame.length = m.len.toNat
  /-- R38: m_k is at most Total. -/
  k_le : m.k.toNat ≤ m.total
  /-- R37, R134: a running sequence carries the frame of a payload of 1 .. PAYLOAD_MAX bytes at a legal duration. -/
  running : m.fsm = .run → ∃ p : List Byte, p ≠ [] ∧ p.length ≤ payloadMax ∧ m.frame = frameOf p ∧
    durOutOfRange m.mode m.dur = false
  /-- R39: a cancel is pending only while a sequence runs. -/
  cancel_run : m.cancel = true → m.fsm = .run
  /-- R35: with no sequence loaded, FRAME is empty. -/
  idle_empty : m.fsm = .idle → m.frame = [] ∧ m.k = 0
  /-- R35, R135: a sequence that is done has emitted every command. -/
  done_all : m.fsm = .done → m.k.toNat = m.total

/-- The invariant of the whole block. -/
structure Inv (s : State) : Prop where
  dem : DemodInv s.dem
  level : s.dem.fsm.active = true → s.dem.mode = .level → LevelInv s.dem
  mod : ModInv s.straps.payloadMax.val s.mod
  pay : Memory.wf s.pay = true
  /-- The driver holds only commands the M port answers with (R97, log 19). -/
  hand : ∀ c ∈ s.hand, c.answerable

/-- A safe step: no fault, and a refusal only of a command word that was not answered or is no operation (R12, R230,
R249). -/
def SafeStep (s : State) : Prop :=
  match step s with
  | .next _ => True
  | .fault _ => False
  | .refused r => r = .notAnswered ∨ ∃ e, r = .notAnOperation e

end Machine

end Sys2Proof
end

