-- ==== Sys2Proof/Certificates/Slice0/Obligations.lean ====
section
/-! DEFINITION. The statements for the provers: what spec/'s rules say the operations, the decoder and the block do. -/

open Sys2Proof Sys2Proof.Machine

/-! Encodings -/

/-- Decoding an encoded well-formed operation gives it back, with every operand at every value. -/
def Obligations.DecodeEncodeRoundTrip : Prop :=
  ∀ i : Instr, i.WellFormed → decode (encode i) = .ok i

/-- What the decoder answers is a well-formed operation: the reserved codes of R99 and R100 go to the reserved rows only. -/
def Obligations.DecodedOperationsWellFormed : Prop :=
  ∀ (p : PortWord) (i : Instr), decode p = .ok i → i.WellFormed

/-- A command word has one meaning: what decodes to a row is that row's encoding, bit for bit. -/
def Obligations.CommandWordsDecodeUniquely : Prop :=
  ∀ (w : BitVec 37) (i : Instr), decode (.cmd w) = .ok i → encode i = .cmd w

/-- The request and command words written out in 95_test_vectors.md section 7 decode to the operations they stand for. -/
def Obligations.SpecWordsDecode : Prop :=
  decode (.mreq 0x0000006400021#52) = .ok (.mStart .level 2 100) ∧
  decode (.mreq 0x0000006400019#52) = .ok (.mStart .tone 1 100) ∧
  decode (.mreq 0x0000000000002#52) = .ok .mStep ∧
  decode (.mreq 0x0000000000003#52) = .ok .mCancel ∧
  decode (.dreq 0x00000000000000000000FAB21#99) = .ok (.dStart .level 50 501) ∧
  decode (.dreq 0x0000000000000816640000002#99) = .ok (.dSample 4140 0 51200) ∧
  decode (.dreq 0x000000000000028F00003FC0A#99) = .ok (.dSample 1310 32641 0) ∧
  decode (.dreq 0x0000000000000000000000003#99) = .ok .dStop ∧
  decode (.cmd 0x0000000C85#37) = .ok (.cmdHigh 100) ∧
  decode (.cmd 0x00000003C7#37) = .ok (.cmdSyncGray 30) ∧
  decode (.cmd 0x0000000C83#37) = .ok (.cmdLow 100) ∧
  decode (.cmd 0x0000000011#37) = .ok (.cmdIdle 0) ∧
  decode (.cmd 0x0000000C8B#37) = .ok (.cmdTone600 100) ∧
  decode (.cmd 0x0000000C8D#37) = .ok (.cmdTone1000 100)

/-- The operation codes of both ports and the fields each operation reads, bit by bit; the other bits may hold any value.
RESET is no operation code but the reset input. -/
def Obligations.OperationCodesAndFields : Prop :=
  (∀ w : BitVec 52, let op := w.extractLsb' 0 3
    (op = 0 → decode (.mreq w) = .ok .mNop) ∧
    (op = 1 → ∃ mode n t, decode (.mreq w) = .ok (.mStart mode n t) ∧ (mode = .tone ↔ w.getLsbD 3 = true) ∧
      (∀ i < 16, n.getLsbD i = w.getLsbD (4 + i)) ∧ ∀ i < 32, t.getLsbD i = w.getLsbD (20 + i)) ∧
    (op = 2 → decode (.mreq w) = .ok .mStep) ∧ (op = 3 → decode (.mreq w) = .ok .mCancel) ∧
    (4 ≤ op.toNat → decode (.mreq w) = .ok (.mReserved op))) ∧
  (∀ w : BitVec 99, let op := w.extractLsb' 0 3
    (op = 0 → decode (.dreq w) = .ok .dNop) ∧
    (op = 1 → ∃ mode sens t, decode (.dreq w) = .ok (.dStart mode sens t) ∧ (mode = .tone ↔ w.getLsbD 3 = true) ∧
      (∀ i < 7, sens.getLsbD i = w.getLsbD (4 + i)) ∧ ∀ i < 32, t.getLsbD i = w.getLsbD (11 + i)) ∧
    (op = 2 → ∃ ts a b, decode (.dreq w) = .ok (.dSample ts a b) ∧ (∀ i < 16, a.getLsbD i = w.getLsbD (3 + i)) ∧
      (∀ i < 16, b.getLsbD i = w.getLsbD (19 + i)) ∧ ∀ i < 64, ts.getLsbD i = w.getLsbD (35 + i)) ∧
    (op = 3 → decode (.dreq w) = .ok .dStop) ∧ (4 ≤ op.toNat → decode (.dreq w) = .ok (.dReserved op))) ∧
  (∀ w : BitVec 1, decode (.rst w) = .ok .reset ↔ w = 1)

/-- The command word CMD field by field, and the response of every M-port operation: m_fsm and m_err as they are after it,
all other fields 0 when the valid bit is 0, and duration 0 in the closing command (R97). -/
def Obligations.CommandWordFields : Prop :=
  (∀ c : Cmd, c.word.getLsbD 0 = c.valid ∧ c.word.extractLsb' 1 3 = c.state.code ∧ c.word.getLsbD 4 = c.last ∧
    c.word.extractLsb' 5 32 = c.dur) ∧
  (∀ (i : Instr) (s s' : State), i.onM = true → exec i s = .next s' →
    ∃ r, s'.mRsp = some r ∧ r.fsm = s'.mod.fsm ∧ r.err = s'.mod.err ∧ (r.cmd.valid = false → r.cmd.word = 0) ∧
      (r.cmd.last = true → r.cmd = ⟨true, .idle, true, 0⟩))

/-- Every response of the M port is one of the seven command words of the opcode table. -/
def Obligations.MPortAnswersTableWords : Prop :=
  ∀ (i : Instr) (s s' : State), i.onM = true → exec i s = .next s' →
    ∃ r j, s'.mRsp = some r ∧ decode (.cmd r.cmd.word) = .ok j ∧ j.isCmd = true ∧ encode j = .cmd r.cmd.word

/-- `Bits8(v)[i] = v[7-i]`, and `Val8` is the number R92 writes out. -/
def Obligations.ByteCodecMsbFirst : Prop :=
  (∀ v : Byte, (bits8 v).length = 8 ∧ ∀ i < 8, (bits8 v)[i]? = some (v.getLsbD (7 - i))) ∧
  (∀ g0 g1 g2 g3 g4 g5 g6 g7 : Bool,
    (val8 [g0, g1, g2, g3, g4, g5, g6, g7]).toNat =
      128 * g0.toNat + 64 * g1.toNat + 32 * g2.toNat + 16 * g3.toNat + 8 * g4.toNat + 4 * g5.toNat + 2 * g6.toNat
        + g7.toNat)

/-- The frame's length and fields by index (R90), markers written out as in R91; and a start with no payload loads none. -/
def Obligations.FrameFieldPositions : Prop :=
  (∀ p : List Byte, (frameOf p).length = 16 + 8 * p.length ∧
    bitSub (frameOf p) 0 8 = [true, false, true, false, true, false, true, false] ∧
    (∀ (j : Nat) (h : j < p.length), bitSub (frameOf p) (8 + 8 * j) 8 = bits8 p[j]) ∧
    bitSub (frameOf p) (8 + 8 * p.length) 8 = [false, true, false, true, false, true, false, true]) ∧
  (∀ (mode : Mode) (t : BitVec 32) (s : State),
    ∃ s', exec (.mStart mode 0 t) s = .next s' ∧ s'.mod.frame = s.mod.frame ∧ s'.mod.err = true)

/-! The step -/

/-- When the next event is a request, or a command for the actuator, whose word decodes to a well-formed operation, the
step performs it on the state with the event taken; for a command, when it is one the driver may apply. That events
stand in one list, and which commands those are, is the model's choice (log 1, log 19). -/
def Obligations.StepPerformsDecodedOperation : Prop :=
  ∀ (s : State) (i : Instr) (rest : List Event), s.rst ≠ 1 → i.WellFormed →
    (∀ w, s.inbox = .mreq w :: rest → decode (.mreq w) = .ok i → step s = exec i { s with inbox := rest }) ∧
    (∀ w, s.inbox = .dreq w :: rest → decode (.dreq w) = .ok i → step s = exec i { s with inbox := rest }) ∧
    (∀ w, s.inbox = .apply w :: rest → s.mayApply w = true → decode (.cmd w) = .ok i →
      step s = exec i { s with inbox := rest })

/-- With no event pending the block is idle and holds its state (R248). The list of events is the model's choice
(log 1). -/
def Obligations.IdleBlockHoldsState : Prop :=
  ∀ s : State, s.rst ≠ 1 → s.inbox = [] → step s = .next s

/-- The byte source's event changes the one byte of PAY it names, and nothing else. PAY in State, written by an event, is
the model's choice (log 5). -/
def Obligations.ByteSourceWritesOneByte : Prop :=
  ∀ (s : State) (a : BitVec 16) (v : Byte) (rest : List Event), s.rst ≠ 1 → s.inbox = .paySet a v :: rest →
    Memory.wf s.pay = true →
    ∃ m, step s = .next { s with inbox := rest, pay := m } ∧ Memory.read m a.toNat = v ∧
      ∀ j, j ≠ a.toNat → Memory.read m j = Memory.read s.pay j

/-- Every operation answers a next state: nothing faults, hangs or is refused by its meaning. -/
def Obligations.EveryOperationCompletes : Prop :=
  ∀ (i : Instr) (s : State), ∃ s', exec i s = .next s'

/-- Every step is safe; a step refuses only when the driver applies a command word it was not given, or, in a state with
a word in the driver's hand that no response can be, such a word; with the invariant only the first. The refusals are the
model's (log 11, log 19). -/
def Obligations.OnlyForeignCommandWordsRefused : Prop :=
  ∀ s : State, SafeStep s ∧
    ∀ r, step s = .refused r → ∃ w rest, s.rst ≠ 1 ∧ s.inbox = .apply w :: rest ∧
      ((s.mayApply w = false ∧ r = .notAnswered) ∨
        (s.mayApply w = true ∧ ∃ e, decode (.cmd w) = .error e ∧ r = .notAnOperation e)) ∧
      (Inv s → r = .notAnswered)

/-- What the driver may apply: the word of no command, the idle command, and the last valid command it received; after any
M-port operations that is the last command among their responses. A step at which it applies any other word is refused.
All of it is the model's reading of the columns of R249 (log 19). -/
def Obligations.DriverAppliesLastAnsweredCommand : Prop :=
  (∀ (s : State) (w : BitVec 37), s.mayApply w = true ↔
    w = 0 ∨ w = 0x11#37 ∨ ∃ c, s.hand = some c ∧ c.word = w) ∧
  (∀ (ops : List Instr) (s s' : State), (∀ i ∈ ops, i.onM = true) → execAll ops s = .next s' →
    s'.hand = (lastCommand (responsesM ops s)).or s.hand) ∧
  (∀ (s : State) (w : BitVec 37) (rest : List Event), s.rst ≠ 1 → s.inbox = .apply w :: rest →
    s.mayApply w = false → step s = .refused .notAnswered)

/-! The M port -/

/-- M_NOP and the reserved codes: no state changes, the response carries no command. -/
def Obligations.MNopAndReservedResult : Prop :=
  ∀ (s : State) (op : BitVec 3),
    exec .mNop s = .next { s with mRsp := some ⟨⟨false, .idle, false, 0⟩, s.mod.fsm, s.mod.err⟩ } ∧
    exec (.mReserved op) s = .next { s with mRsp := some ⟨⟨false, .idle, false, 0⟩, s.mod.fsm, s.mod.err⟩ }

/-- M_START: a running sequence is torn down first and the actuator told; then refused operands set m_err and change
nothing else, and valid ones load the sequence (R134). That the driver's hand receives the closing command is the model's
choice (log 19). -/
def Obligations.MStartResult : Prop :=
  ∀ (mode : Mode) (n : BitVec 16) (t : BitVec 32) (s : State),
    let out : Cmd := if s.mod.fsm = .run then ⟨true, .idle, true, 0⟩ else ⟨false, .idle, false, 0⟩
    let fsm : MFsm := if s.mod.fsm = .run then .cancelled else s.mod.fsm
    let lo : Nat := if mode = .level then 50 else 100
    let hi : Nat := if mode = .level then 500 else 1000
    let refused : Prop := n.toNat = 0 ∨ s.straps.payloadMax.val < n.toNat ∨ t.toNat = 0 ∨ t.toNat < lo ∨ hi < t.toNat
    let hand : Option Cmd := if s.mod.fsm = .run then some ⟨true, .idle, true, 0⟩ else s.hand
    (refused → exec (.mStart mode n t) s = .next { s with
      hand := hand
      mod := { s.mod with fsm := fsm, cancel := if s.mod.fsm = .run then false else s.mod.cancel, err := true }
      mRsp := some ⟨out, fsm, true⟩ }) ∧
    (¬ refused → exec (.mStart mode n t) s = .next { s with
      hand := hand
      mod := { fsm := .run, mode := mode, dur := t, frame := frameOf (payload s.pay n.toNat),
               len := BitVec.ofNat 16 (16 + 8 * n.toNat), k := 0, cancel := false, err := false }
      mRsp := some ⟨out, .run, false⟩ })

/-- M_STEP: outside M_RUN nothing; a pending cancel, then the end of the sequence, give the closing command; else the
command at m_k is emitted and m_k advances (R135). The model's choices in it: that the driver's hand receives the command
(log 19), and, in states that no run reaches, what a frame index past the end reads as (log 14) and that m_k wraps
(log 15). -/
def Obligations.MStepResult : Prop :=
  ∀ s : State,
    let total : Nat := if s.mod.mode = .level then 2 * s.mod.len.toNat else s.mod.len.toNat
    (s.mod.fsm ≠ .run → exec .mStep s =
      .next { s with mRsp := some ⟨⟨false, .idle, false, 0⟩, s.mod.fsm, s.mod.err⟩ }) ∧
    (s.mod.fsm = .run → s.mod.cancel = true → exec .mStep s = .next { s with
      mod := { s.mod with cancel := false, fsm := .cancelled }
      mRsp := some ⟨⟨true, .idle, true, 0⟩, .cancelled, s.mod.err⟩, hand := some ⟨true, .idle, true, 0⟩ }) ∧
    (s.mod.fsm = .run → s.mod.cancel = false → s.mod.k.toNat = total → exec .mStep s = .next { s with
      mod := { s.mod with fsm := .done }
      mRsp := some ⟨⟨true, .idle, true, 0⟩, .done, s.mod.err⟩, hand := some ⟨true, .idle, true, 0⟩ }) ∧
    (s.mod.fsm = .run → s.mod.cancel = false → s.mod.k.toNat ≠ total → exec .mStep s = .next { s with
      mod := { s.mod with k := s.mod.k + 1 }
      mRsp := some ⟨frameCmd s.mod.mode s.mod.frame s.mod.dur s.mod.k.toNat, .run, s.mod.err⟩
      hand := some (frameCmd s.mod.mode s.mod.frame s.mod.dur s.mod.k.toNat) })

/-- M_CANCEL: while a sequence runs the stop signal is latched; else nothing changes; no command either way. -/
def Obligations.MCancelResult : Prop :=
  ∀ s : State,
    (s.mod.fsm = .run → exec .mCancel s = .next { s with
      mod := { s.mod with cancel := true }, mRsp := some ⟨⟨false, .idle, false, 0⟩, .run, s.mod.err⟩ }) ∧
    (s.mod.fsm ≠ .run → exec .mCancel s =
      .next { s with mRsp := some ⟨⟨false, .idle, false, 0⟩, s.mod.fsm, s.mod.err⟩ })

/-- The Level-mode command of index k: bit k/2 as a level for T, then the gray sync for floor(3·T/10). -/
def Obligations.LevelFrameCommand : Prop :=
  ∀ (f : Bits) (t : BitVec 32) (k : Nat),
    (∀ h : k / 2 < f.length, k % 2 = 0 →
      frameCmd .level f t k = ⟨true, if f[k / 2] = true then .high else .low, false, t⟩) ∧
    (k % 2 = 1 → ∃ d : BitVec 32, frameCmd .level f t k = ⟨true, .syncGray, false, d⟩ ∧ d.toNat = 3 * t.toNat / 10)

/-- The Tone-mode command of index k: bit k as a tone for T. -/
def Obligations.ToneFrameCommand : Prop :=
  ∀ (f : Bits) (t : BitVec 32) (k : Nat) (h : k < f.length),
    frameCmd .tone f t k = ⟨true, if f[k] = true then .tone1000 else .tone600, false, t⟩

/-- The frame of a performed M_START: the start marker, each payload byte as PAY holds it most significant bit first, the
end marker. -/
def Obligations.BuildFrameReadsPayload : Prop :=
  ∀ (mode : Mode) (n : BitVec 16) (t : BitVec 32) (s s' : State),
    badModStart s.straps.payloadMax.val mode n t = false → exec (.mStart mode n t) s = .next s' →
    s'.mod.frame.length = 16 + 8 * n.toNat ∧
    bitSub s'.mod.frame 0 8 = Config.startMarker ∧
    (∀ j < n.toNat, bitSub s'.mod.frame (8 + 8 * j) 8 = bits8 (Memory.read s.pay j)) ∧
    bitSub s'.mod.frame (8 + 8 * n.toNat) 8 = Config.endMarker

/-- MODULATE: after a performed M_START, M_STEP yields exactly the frame's commands in order, then the closing command
once, then none (R130, R138: the spec's own inference). -/
def Obligations.ModulateEmitsWholeFrame : Prop :=
  ∀ (mode : Mode) (n : BitVec 16) (t : BitVec 32) (s s1 : State),
    badModStart s.straps.payloadMax.val mode n t = false → exec (.mStart mode n t) s = .next s1 →
    let f := frameOf (payload s.pay n.toNat)
    let total : Nat := if mode = .level then 2 * f.length else f.length
    responsesM (List.replicate (total + 2) .mStep) s1 =
      (List.range total).map (fun k => some ⟨frameCmd mode f t k, .run, false⟩) ++
        [some ⟨⟨true, .idle, true, 0⟩, .done, false⟩, some ⟨⟨false, .idle, false, 0⟩, .done, false⟩]

/-- Whatever M-port operations are performed, once the sequencer is out of M_RUN the last command the actuator received
is the closing IDLE, unless none was sent at all from a sequencer that did not run; and a frame command is only ever
answered in M_RUN (R288: the spec's own inference). -/
def Obligations.ActuatorLeftIdle : Prop :=
  (∀ (ops : List Instr) (s s' : State), (∀ i ∈ ops, i.onM = true) → execAll ops s = .next s' → s'.mod.fsm ≠ .run →
    lastCommand (responsesM ops s) = some ⟨true, .idle, true, 0⟩ ∨
    (s.mod.fsm ≠ .run ∧ lastCommand (responsesM ops s) = none)) ∧
  (∀ (i : Instr) (s s' : State), i.onM = true → exec i s = .next s' →
    ∃ r, s'.mRsp = some r ∧ (r.cmd.valid = true → r.cmd.last = false → s.mod.fsm = .run ∧ s'.mod.fsm = .run))

/-! The D port: sessions -/

/-- D_NOP and the reserved codes: no state changes, the response is Pending with the current values. -/
def Obligations.DNopAndReservedResult : Prop :=
  ∀ (s : State) (op : BitVec 3),
    exec .dNop s = .next { s with dRsp := some (DRsp.of s.dem .pending) } ∧
    exec (.dReserved op) s = .next { s with dRsp := some (DRsp.of s.dem .pending) }

/-- D_START: an active session is torn down first; then refused operands set d_cfg_err and change nothing else, and valid
ones write the configuration and begin a fresh session in ARMED. -/
def Obligations.DStartResult : Prop :=
  ∀ (mode : Mode) (sens : BitVec 7) (t : BitVec 32) (s : State),
    let active : Prop := s.dem.fsm = .armed ∨ s.dem.fsm = .accumulating ∨ s.dem.fsm = .complete
    let fresh : Demod := { s.dem with
      level := none, freq := none, tstart := 0, hist := [], buf := [], count := 0, preview := [], final := [] }
    let lo : Nat := if mode = .level then 50 else 100
    let hi : Nat := if mode = .level then 500 else 1000
    let refused : Prop := sens.toNat < 10 ∨ 90 < sens.toNat ∨ t.toNat < lo ∨ hi < t.toNat
    let ended : Demod := { fresh with fsm := .stopped, cfgErr := true }
    let kept : Demod := { s.dem with cfgErr := true }
    let begun : Demod := { fresh with fsm := .armed, mode := mode, sens := sens, dur := t, cfgErr := false }
    (refused → active → exec (.dStart mode sens t) s =
      .next { s with dem := ended, dRsp := some (DRsp.of ended .pending) }) ∧
    (refused → ¬ active → exec (.dStart mode sens t) s =
      .next { s with dem := kept, dRsp := some (DRsp.of kept .pending) }) ∧
    (¬ refused → exec (.dStart mode sens t) s =
      .next { s with dem := begun, dRsp := some (DRsp.of begun .pending) })

/-- D_STOP: an active session is discarded and d_fsm becomes STOPPED; else nothing changes; flags and configuration keep
their values. -/
def Obligations.DStopResult : Prop :=
  ∀ s : State,
    let active : Prop := s.dem.fsm = .armed ∨ s.dem.fsm = .accumulating ∨ s.dem.fsm = .complete
    let ended : Demod := { s.dem with
      fsm := .stopped, level := none, freq := none, tstart := 0, hist := [], buf := [], count := 0, preview := [],
      final := [] }
    (active → exec .dStop s = .next { s with dem := ended, dRsp := some (DRsp.of ended .pending) }) ∧
    (¬ active → exec .dStop s = .next { s with dRsp := some (DRsp.of s.dem .pending) })

/-- The transitions of d_fsm, for every pair of state and operation (R153's table). -/
def Obligations.SessionTransitions : Prop :=
  ∀ (i : Instr) (s s' : State), exec i s = .next s' →
    (i = .reset → s'.dem.fsm = .idle) ∧
    (i.onM = true ∨ i.isCmd = true ∨ i = .dNop ∨ (∃ op, i = .dReserved op) → s'.dem.fsm = s.dem.fsm) ∧
    (i = .dStop → s'.dem.fsm = if s.dem.fsm.active = true then .stopped else s.dem.fsm) ∧
    (∀ mode sens t, i = .dStart mode sens t → s'.dem.fsm =
      if badDemodConfig mode sens t = false then .armed
      else if s.dem.fsm.active = true then .stopped else s.dem.fsm) ∧
    (∀ ts a b, i = .dSample ts a b →
      (s.dem.fsm = .idle ∨ s.dem.fsm = .stopped ∨ s.dem.fsm = .complete → s'.dem.fsm = s.dem.fsm) ∧
      (s.dem.fsm = .armed → ¬ s.dem.accepts s.straps.tieFreq ts a b → s'.dem.fsm = .armed) ∧
      (s.dem.fsm = .armed → s.dem.accepts s.straps.tieFreq ts a b →
        s'.dem.fsm = .accumulating ∨ s'.dem.fsm = .complete) ∧
      (s.dem.fsm = .accumulating → s'.dem.fsm = .accumulating ∨ s'.dem.fsm = .complete) ∧
      (s'.dem.fsm = .complete ↔ ∃ r t, s'.dRsp = some r ∧ r.result = .complete t))

/-- DRSP after every D-port operation: the registers after it, the live view with the newest bit at position 0, and a text
only in a Partial or Complete result (R101). -/
def Obligations.DrspFields : Prop :=
  ∀ (i : Instr) (s s' : State), i.onD = true → DemodInv s.dem → exec i s = .next s' →
    ∃ r, s'.dRsp = some r ∧
      r.levelOut = s'.dem.level ∧ r.freqOut = s'.dem.freq ∧ r.count = s'.dem.count ∧ r.fsm = s'.dem.fsm ∧
      r.cfgErr = s'.dem.cfgErr ∧
      r.liveLen.toNat = min s'.dem.buf.length 50 ∧
      (∀ j < 50, r.liveBits.getLsbD j = if j < s'.dem.buf.length then s'.dem.buf.reverse.getD j false else false) ∧
      (r.result = .pending → r.textLen = 0) ∧
      ((∀ ts a b, i ≠ .dSample ts a b) → r.result = .pending) ∧
      r.textLen.toNat = r.result.text.length ∧ r.result.text.length ≤ 248 ∧
      (∀ (j : Nat) (h : j < r.result.text.length), r.textByte j = r.result.text[j]) ∧
      (∀ j, r.textLen.toNat ≤ j → r.textByte j = 0)

/-! The D port: D_SAMPLE -/

/-- Binarize in both modes (R171, R172) with the exact, strict comparison (R173). -/
def Obligations.BinarizeExact : Prop :=
  ∀ (tie : Band) (sens : BitVec 7) (a b : BitVec 16),
    binarize tie .level sens a b = (if 100 * a.toNat > 65280 * sens.toNat then .high else .low, none) ∧
    binarize tie .tone sens a b =
      (if 100 * max a.toNat b.toNat > 65280 * sens.toNat then .high else .low,
       some (if a.toNat > b.toNat then .f600 else if b.toNat > a.toNat then .f1000 else tie))

/-- D_SAMPLE outside a session is ignored and Pending; in COMPLETE it changes nothing and answers the final text. -/
def Obligations.SampleOutsideDecoding : Prop :=
  ∀ (ts : BitVec 64) (a b : BitVec 16) (s : State),
    (s.dem.fsm = .idle ∨ s.dem.fsm = .stopped →
      exec (.dSample ts a b) s = .next { s with dRsp := some (DRsp.of s.dem .pending) }) ∧
    (s.dem.fsm = .complete →
      exec (.dSample ts a b) s = .next { s with dRsp := some (DRsp.of s.dem (.complete s.dem.final)) })

/-- Priming: the first sample of a session sets the current level, frequency and start time, and nothing else. -/
def Obligations.FirstSamplePrimes : Prop :=
  ∀ (ts : BitVec 64) (a b : BitVec 16) (s : State),
    s.dem.fsm = .armed ∨ s.dem.fsm = .accumulating → s.dem.level = none →
    let bin := binarize s.straps.tieFreq s.dem.mode s.dem.sens a b
    let primed : Demod := { s.dem with level := some bin.1, freq := bin.2, tstart := ts }
    exec (.dSample ts a b) s = .next { s with dem := primed, dRsp := some (DRsp.of primed .pending) }

/-- The candidate and debounce test. A sample whose level does not differ, or that comes sooner than 30 ms (Level) or 50 ms
(Tone) after the current level began, or carries an earlier timestamp, changes no state; every other one is accepted: the
ended record is pushed and a new current-state record begun, whatever the stages after it find. -/
def Obligations.CandidateAndDebounceTest : Prop :=
  ∀ (ts : BitVec 64) (a b : BitVec 16) (l : Lvl) (s : State),
    s.dem.fsm = .armed ∨ s.dem.fsm = .accumulating → s.dem.level = some l →
    let bin := binarize s.straps.tieFreq s.dem.mode s.dem.sens a b
    let rejected : Prop := bin.1 = l ∨ ts.toNat < s.dem.tstart.toNat + (if s.dem.mode = .level then 30 else 50)
    (rejected → exec (.dSample ts a b) s = .next { s with dRsp := some (DRsp.of s.dem .pending) }) ∧
    (¬ rejected → ∃ t, exec (.dSample ts a b) s = .next t ∧
      t.dem.level = some bin.1 ∧ t.dem.freq = bin.2 ∧ t.dem.tstart = ts ∧
      t.dem.hist = histPush s.dem.hist ⟨l, ts - s.dem.tstart, s.dem.freq⟩ ∧
      (t.dem.fsm = .accumulating ∨ t.dem.fsm = .complete) ∧
      (DemodInv s.dem → s.dem.mode = .level → ∀ r ∈ t.dem.hist, r.freq = none))

/-- An accepted transition that yields no bit: the ended record is pushed, the new one begins, the session is
ACCUMULATING, and the result is Pending. -/
def Obligations.AcceptedWithoutBit : Prop :=
  ∀ (ts : BitVec 64) (a b : BitVec 16) (l : Lvl) (s : State),
    s.dem.fsm = .armed ∨ s.dem.fsm = .accumulating → s.dem.level = some l →
    let bin := binarize s.straps.tieFreq s.dem.mode s.dem.sens a b
    bin.1 ≠ l → s.dem.tstart.toNat + (if s.dem.mode = .level then 30 else 50) ≤ ts.toNat →
    let hist := histPush s.dem.hist ⟨l, ts - s.dem.tstart, s.dem.freq⟩
    let began : Demod := { s.dem with
      level := some bin.1, freq := bin.2, tstart := ts, hist := hist, fsm := .accumulating }
    extractBit s.dem.mode hist = none →
    exec (.dSample ts a b) s = .next { s with dem := began, dRsp := some (DRsp.of began .pending) }

/-- An accepted transition that yields a bit: it is appended and counted; with more than 50 bits a found frame completes
the session; else, with more than 100, a preview that differs from the last one shown is surfaced; else Pending. -/
def Obligations.AcceptedWithBit : Prop :=
  ∀ (ts : BitVec 64) (a b : BitVec 16) (l : Lvl) (bit : Bool) (s : State),
    s.dem.fsm = .armed ∨ s.dem.fsm = .accumulating → s.dem.level = some l →
    let bin := binarize s.straps.tieFreq s.dem.mode s.dem.sens a b
    bin.1 ≠ l → s.dem.tstart.toNat + (if s.dem.mode = .level then 30 else 50) ≤ ts.toNat →
    let hist := histPush s.dem.hist ⟨l, ts - s.dem.tstart, s.dem.freq⟩
    extractBit s.dem.mode hist = some bit →
    let buf := bufAppend s.dem.buf bit
    let got : Demod := { s.dem with
      level := some bin.1, freq := bin.2, tstart := ts, hist := hist, fsm := .accumulating, buf := buf,
      count := if s.dem.count.toNat + 1 < 2 ^ 64 then s.dem.count + 1 else s.dem.count }
    (∀ t, 50 < buf.length → frameSearch buf = some t →
      let done : Demod := { got with final := t, fsm := .complete }
      exec (.dSample ts a b) s = .next { s with dem := done, dRsp := some (DRsp.of done (.complete t)) }) ∧
    (buf.length ≤ 50 ∨ frameSearch buf = none →
      (∀ p, 100 < buf.length → previewText buf = some p → p ≠ s.dem.preview →
        let shown : Demod := { got with preview := p }
        exec (.dSample ts a b) s = .next { s with dem := shown, dRsp := some (DRsp.of shown (.partialText p)) }) ∧
      (buf.length ≤ 100 ∨ previewText buf = none ∨ previewText buf = some s.dem.preview →
        exec (.dSample ts a b) s = .next { s with dem := got, dRsp := some (DRsp.of got .pending) }))

/-- ExtractLevel: no bit from fewer than two records; 0 for LOW then HIGH, 1 for HIGH then LOW, none for equal levels. -/
def Obligations.LevelBitIsDirection : Prop :=
  (∀ hist : List HistRec, hist.length < 2 → extractBit .level hist = none) ∧
  (∀ (pre : List HistRec) (p r : HistRec),
    (p.level = .low → r.level = .high → extractBit .level (pre ++ [p, r]) = some false) ∧
    (p.level = .high → r.level = .low → extractBit .level (pre ++ [p, r]) = some true) ∧
    (p.level = r.level → extractBit .level (pre ++ [p, r]) = none))

/-- ExtractTone: the frequency of the newest record if it is a sound, 0 for 600 Hz and 1 for 1000 Hz; no bit otherwise. -/
def Obligations.ToneBitIsFrequency : Prop :=
  extractBit .tone [] = none ∧
  (∀ (pre : List HistRec) (dur : BitVec 64) (f : Option Band),
    extractBit .tone (pre ++ [⟨.low, dur, f⟩]) = none ∧
    extractBit .tone (pre ++ [⟨.high, dur, some .f600⟩]) = some false ∧
    extractBit .tone (pre ++ [⟨.high, dur, some .f1000⟩]) = some true ∧
    extractBit .tone (pre ++ [⟨.high, dur, none⟩]) = none)

/-- BufAppend: the bit is appended; a buffer that would hold 2001 bits keeps its last 1000, contiguous and in order. -/
def Obligations.BufAppendKeepsNewest : Prop :=
  ∀ (buf : Bits) (b : Bool),
    (buf.length < 2000 → bufAppend buf b = buf ++ [b]) ∧
    (2000 ≤ buf.length → (bufAppend buf b).length = 1000 ∧ bufAppend buf b <:+ buf ++ [b]) ∧
    (buf.length ≤ 2000 → 1 ≤ (bufAppend buf b).length ∧ (bufAppend buf b).length ≤ 2000)

/-- HistPush: the record is appended; past 20 the newest 20 are kept, contiguous and in order. -/
def Obligations.HistPushKeepsNewest : Prop :=
  ∀ (hist : List HistRec) (r : HistRec),
    (hist.length < 20 → histPush hist r = hist ++ [r]) ∧
    (20 ≤ hist.length → (histPush hist r).length = 20 ∧ histPush hist r <:+ hist ++ [r]) ∧
    (1 ≤ (histPush hist r).length ∧ (histPush hist r).length ≤ 20)

/-- BUF is an end of the session's logical bit string, whole up to 2000 bits and at least 1000 bits after that (R27, R282:
the spec's own inference). -/
def Obligations.BufferIsTailOfAllBits : Prop :=
  ∀ bits : Bits,
    bits.foldl bufAppend [] <:+ bits ∧
    (bits.length ≤ 2000 → bits.foldl bufAppend [] = bits) ∧
    (2000 < bits.length → 1000 ≤ (bits.foldl bufAppend []).length ∧ (bits.foldl bufAppend []).length ≤ 2000)

/-- d_count: a D_SAMPLE that appends a bit adds exactly one (saturating), any other leaves it, and no D_SAMPLE lowers it
(R285: the spec's own inference). -/
def Obligations.DetectedBitCounter : Prop :=
  ∀ (ts : BitVec 64) (a b : BitVec 16) (s s' : State), exec (.dSample ts a b) s = .next s' →
    s.dem.count.toNat ≤ s'.dem.count.toNat ∧
    ((s'.dem.count = s.dem.count ∧ s'.dem.buf = s.dem.buf) ∨
     (∃ bit, s'.dem.buf = bufAppend s.dem.buf bit ∧
       s'.dem.count.toNat = min (s.dem.count.toNat + 1) (2 ^ 64 - 1)))

/-- Any two accepted transitions with none between, and the priming sample and the first, are at least the debounce time
apart: whenever a D_SAMPLE moves d_tstart inside a primed session, the new time is that much later (R280: the spec's own
inference). -/
def Obligations.DebounceSeparatesTransitions : Prop :=
  ∀ (ts : BitVec 64) (a b : BitVec 16) (s s' : State), exec (.dSample ts a b) s = .next s' → s.dem.level ≠ none →
    s'.dem.tstart ≠ s.dem.tstart ∨ s'.dem.level ≠ s.dem.level →
    s'.dem.tstart = ts ∧ s.dem.tstart.toNat + (if s.dem.mode = .level then 30 else 50) ≤ ts.toNat

/-! The frame decoder -/

/-- `find` answers the least index at or after `start` where the pattern stands, and NONE when there is none. -/
def Obligations.FindIsLeastIndex : Prop :=
  ∀ (s pat : Bits) (start : Nat),
    (∀ i, bitFind s pat start = some i ↔
      (start ≤ i ∧ i + pat.length ≤ s.length ∧ bitSub s i pat.length = pat) ∧
      ∀ j, start ≤ j → j + pat.length ≤ s.length → bitSub s j pat.length = pat → i ≤ j) ∧
    (bitFind s pat start = none ↔ ∀ j, start ≤ j → j + pat.length ≤ s.length → bitSub s j pat.length ≠ pat)

/-- DecodeBytes: the values 1 .. 126 of the 8-bit groups in order, the others dropped. NonBlank: some byte is none of tab,
line feed, vertical tab, form feed, carriage return, space. -/
def Obligations.DecodeBytesAndNonBlank : Prop :=
  (∀ g : Bits, g.length % 8 = 0 →
    decodeBytes g = ((List.range (g.length / 8)).map (fun j => val8 (bitSub g (8 * j) 8))).filter
      (fun v => decide (1 ≤ v.toNat) && decide (v.toNat ≤ 126))) ∧
  (∀ t : Text, nonBlank t = true ↔
    ∃ v ∈ t, v ≠ 0x09 ∧ v ≠ 0x0A ∧ v ≠ 0x0B ∧ v ≠ 0x0C ∧ v ≠ 0x0D ∧ v ≠ 0x20)

/-- FrameSearch: Found exactly when the first start marker and the first end marker beginning at or after its end enclose
a positive multiple of 8 bits whose text is not blank; the text is reported untrimmed. -/
def Obligations.FrameSearchFirstPair : Prop :=
  ∀ (buf : Bits) (t : Text), frameSearch buf = some t ↔
    ∃ s e, bitFind buf [true, false, true, false, true, false, true, false] 0 = some s ∧
      bitFind buf [false, true, false, true, false, true, false, true] (s + 8) = some e ∧
      0 < e - (s + 8) ∧ (e - (s + 8)) % 8 = 0 ∧
      t = decodeBytes (bitSub buf (s + 8) (e - (s + 8))) ∧ nonBlank t = true

/-- Preview: NONE without a start marker in the trailing 200 bits; else the whole bytes after the first one there. -/
def Obligations.PreviewOfTrailingWindow : Prop :=
  ∀ buf : Bits,
    let w := buf.drop (buf.length - 200)
    (bitFind w Config.startMarker 0 = none → previewText buf = none) ∧
    (∀ p, bitFind w Config.startMarker 0 = some p →
      previewText buf = some (decodeBytes ((w.drop (p + 8)).take (8 * ((w.length - (p + 8)) / 8)))))

/-- A frame whose own markers are the first pair in the string is found, with its payload as the text (R287, its last
sentence: the spec's own inference). -/
def Obligations.FrameSearchFindsFrame : Prop :=
  ∀ (z : Bits) (p : Text), (∀ v ∈ p, 1 ≤ v.toNat ∧ v.toNat ≤ 126) → nonBlank p = true →
    bitFind (z ++ frameOf p) Config.startMarker 0 = some z.length →
    bitFind (frameOf p) Config.endMarker 8 = some (8 + 8 * p.length) →
    frameSearch (z ++ frameOf p) = some p

/-! Whole sessions -/

/-- Every D_SAMPLE of a Level-mode session answers Pending, for every sample: the extracted bits alternate, so no frame
and no preview is found (R266: the spec's own inference). -/
def Obligations.LevelModeAlwaysPending : Prop :=
  ∀ (ts : BitVec 64) (a b : BitVec 16) (s s' : State), Inv s → s.dem.fsm.active = true → s.dem.mode = .level →
    exec (.dSample ts a b) s = .next s' → s'.dRsp = some (DRsp.of s'.dem .pending) ∧ alternating s'.dem.buf

/-- Once COMPLETE, any further samples all answer Complete with the same text and change no register (R283: the spec's own
inference). -/
def Obligations.CompleteTextStays : Prop :=
  ∀ (samples : List (BitVec 64 × BitVec 16 × BitVec 16)) (s : State), s.dem.fsm = .complete → samples ≠ [] →
    execAll (samples.map (fun x => .dSample x.1 x.2.1 x.2.2)) s =
      .next { s with dRsp := some (DRsp.of s.dem (.complete s.dem.final)) }

/-- In Tone mode sounds with no silence between them are one interval: samples above the threshold, whatever their
frequency and time, change no register once the current level is sound (R267: the spec's own inference). -/
def Obligations.SoundWithoutSilenceIsOneInterval : Prop :=
  ∀ (samples : List (BitVec 64 × BitVec 16 × BitVec 16)) (s s' : State),
    s.dem.fsm = .armed ∨ s.dem.fsm = .accumulating → s.dem.mode = .tone → s.dem.level = some .high →
    (∀ x ∈ samples, 100 * max x.2.1.toNat x.2.2.toNat > 65280 * s.dem.sens.toNat) →
    execAll (samples.map (fun x => .dSample x.1 x.2.1 x.2.2)) s = .next s' → s'.dem = s.dem

/-- A Tone-mode frame presented as one sampled sound and one sampled silence for every bit, each of a length of its own
of at least 50 ms and seen by any number of samples of any energies on its side of the threshold, with or without silence
before it, is received: for 5 to 248 printable bytes, not all whitespace, without an early end marker, the last sample
answers Complete with the payload, and with no sample after the first of the last silence that is the one that ends the
last tone (R287: the spec's own inference; the stream of samples is this statement's harness). -/
def Obligations.ToneFrameReceived : Prop :=
  ∀ (p : Text) (before : List ToneSample) (slots : List ToneSlot) (s : State),
    5 ≤ p.length → p.length ≤ 248 → (∀ v ∈ p, 1 ≤ v.toNat ∧ v.toNat ≤ 126) → nonBlank p = true →
    bitFind (frameOf p) Config.endMarker 8 = some (8 + 8 * p.length) →
    DemodInv s.dem → s.dem.fsm = .armed → s.dem.level = none → s.dem.mode = .tone →
    (∀ x ∈ before, ¬ x.loud s.dem.sens) →
    (∀ x ∈ before.head?, ∀ y ∈ slots.head?, x.ts.toNat + 50 ≤ y.sound.ts.toNat) →
    List.Forall₂ (ToneSlot.presents s.dem.sens) slots (frameOf p) → List.IsChain ToneSlot.spaced slots →
    ∃ s', execAll (before.map ToneSample.op ++ slots.flatMap ToneSlot.ops) s = .next s' ∧
      s'.dem.fsm = .complete ∧ s'.dem.final = p ∧ s'.dRsp = some (DRsp.of s'.dem (.complete p))

/-! The whole block -/

/-- Every step keeps the invariant: the ring and the buffer within their bounds, the counter's relation to the buffer,
debounced alternating records, the configuration of a session legal, the texts in their registers, a Level-mode session
never complete, the sequencer's index within its sequence, PAY in its canonical form (R281, R282, R266: the spec's own
inferences), the driver's hand a command the M port answers with (log 19). -/
def Obligations.InvariantKeptByEveryStep : Prop :=
  ∀ s s' : State, Inv s → step s = .next s' → Inv s'

/-- The state after reset has the invariant. -/
def Obligations.InvariantAtReset : Prop := Inv State.reset

/-- An operation on one port changes nothing of the other agent; a command word changes no register at all; RESET keeps
PAY, the parameters and what the actuator and the driver hold; no operation changes a byte of PAY or the inputs to come.
Executing a command word is the model's choice (log 9), and so are that the inputs stand in one list (log 1), that a RESET
leaves the waiting ones there (log 12), and the driver's hand (log 19). -/
def Obligations.OperationsChangeOnlyTheirPort : Prop :=
  ∀ (i : Instr) (s s' : State), exec i s = .next s' →
    (∀ a, Memory.read s'.pay a = Memory.read s.pay a) ∧
    s'.straps = s.straps ∧ s'.inbox = s.inbox ∧ s'.rst = s.rst ∧
    (i.onM = true → s'.dem = s.dem ∧ s'.dRsp = s.dRsp ∧ s'.act = s.act ∧ s'.free = s.free) ∧
    (i.onD = true → s'.mod = s.mod ∧ s'.mRsp = s.mRsp ∧ s'.hand = s.hand ∧ s'.act = s.act ∧ s'.free = s.free) ∧
    (i.isCmd = true → s'.dem = s.dem ∧ s'.mod = s.mod ∧ s'.dRsp = s.dRsp ∧ s'.mRsp = s.mRsp ∧ s'.hand = s.hand ∧
      s'.free = s.free) ∧
    (i = .reset → s'.act = s.act ∧ s'.hand = s.hand)

/-- Any interleaving of M-port and D-port operations gives each agent what running its own operations alone gives (R70:
the spec's own inference). The clause on the driver's hand is about a field of the model's own (log 19). -/
def Obligations.InterleavingIsInvisible : Prop :=
  ∀ (ops : List Instr) (s s' : State), (∀ i ∈ ops, i.onM = true ∨ i.onD = true) → execAll ops s = .next s' →
    (∃ sm, execAll (ops.filter Instr.onM) s = .next sm ∧ sm.mod = s'.mod ∧ sm.mRsp = s'.mRsp ∧ sm.hand = s'.hand ∧
      sm.dem = s.dem) ∧
    (∃ sd, execAll (ops.filter Instr.onD) s = .next sd ∧ sd.dem = s'.dem ∧ sd.dRsp = s'.dRsp ∧ sd.mod = s.mod)

/-- RESET: an asserted reset input is performed first, whatever requests wait at the ports; then both agents are idle,
DetectionState fresh, the flags 0, the frame gone, no command is sent to the actuator and no response given. The state
after reset has the same values: it is the power-on state. That the next step performs the assertion, keeps the requests
that wait and clears the bit is the model's choice (log 12), and so is that both responses become none (log 10). -/
def Obligations.ResetResult : Prop :=
  let cleared : State → Prop := fun t =>
    t.dem.fsm = .idle ∧ t.dem.level = none ∧ t.dem.freq = none ∧ t.dem.tstart = 0 ∧ t.dem.hist = [] ∧
    t.dem.buf = [] ∧ t.dem.count = 0 ∧ t.dem.preview = [] ∧ t.dem.final = [] ∧ t.dem.cfgErr = false ∧
    t.mod.fsm = .idle ∧ t.mod.frame = [] ∧ t.mod.len = 0 ∧ t.mod.k = 0 ∧ t.mod.cancel = false ∧ t.mod.err = false
  (∀ s : State, s.rst = 1 → step s = exec .reset { s with rst := 0 }) ∧
  (∀ s : State, ∃ t, exec .reset s = .next t ∧ cleared t ∧ t.act = s.act ∧ t.mRsp = none ∧ t.dRsp = none) ∧
  cleared State.reset

/-- The reset input may be asserted at any time (R249): with the input low, the event asserts it and changes nothing else,
and the step after that performs RESET before any request that waits. That the assertion is an event, and the order, is the
model's choice (log 1, log 12). -/
def Obligations.ResetAtAnyTime : Prop :=
  ∀ (s : State) (rest : List Event), s.rst ≠ 1 → s.inbox = .assertRst :: rest →
    step s = .next { s with inbox := rest, rst := 1 } ∧
    step { s with inbox := rest, rst := 1 } = exec .reset { s with inbox := rest, rst := 0 }

/-- After RESET both agents are idle; and from every state in which they are, any operations but starts and RESET change no
register, and each of them then answers Pending or no command (R261: the spec's own inference). -/
def Obligations.InertAfterReset : Prop :=
  let inert : Instr → Prop := fun i =>
    (∀ mode n d, i ≠ .mStart mode n d) ∧ (∀ mode sens d, i ≠ .dStart mode sens d) ∧ i ≠ .reset
  (∀ s t : State, exec .reset s = .next t → t.dem.fsm = .idle ∧ t.mod.fsm = .idle ∧ t.mod.err = false) ∧
  (∀ (ops : List Instr) (s : State), s.dem.fsm = .idle → s.mod.fsm = .idle → (∀ i ∈ ops, inert i) →
    ∃ u, execAll ops s = .next u ∧ u.dem = s.dem ∧ u.mod = s.mod ∧
      ∀ i, inert i → ∃ v, exec i u = .next v ∧ v.dem = s.dem ∧ v.mod = s.mod ∧
        (i.onD = true → v.dRsp = some (DRsp.of s.dem .pending)) ∧
        (i.onM = true → v.mRsp = some ⟨⟨false, .idle, false, 0⟩, .idle, s.mod.err⟩))

/-- The command words as the actuator driver applies them. That executing such a word means APPLY is the model's choice
(log 9). -/
def Obligations.CommandWordsApplied : Prop :=
  ∀ (dur : BitVec 32) (s : State),
    exec (.cmdIdle dur) s = .next { s with act := some ⟨.idle, dur⟩ } ∧
    exec (.cmdLow dur) s = .next { s with act := some ⟨.low, dur⟩ } ∧
    exec (.cmdHigh dur) s = .next { s with act := some ⟨.high, dur⟩ } ∧
    exec (.cmdSyncGray dur) s = .next { s with act := some ⟨.syncGray, dur⟩ } ∧
    exec (.cmdTone600 dur) s = .next { s with act := some ⟨.tone600, dur⟩ } ∧
    exec (.cmdTone1000 dur) s = .next { s with act := some ⟨.tone1000, dur⟩ } ∧
    exec .cmdNone s = .next s

/-- The debug read of every numbered register: its value, or the code of R103 and R104 for it; 0 for an unused number. The
form of the two texts, and 0 for the numbers above 31, which R43 does not give, are the model's choice (log 16). -/
def Obligations.DebugReadsRegisterMap : Prop :=
  ∀ s : State,
    debugRead s 0 = .word (match s.dem.fsm with
      | .idle => 0 | .armed => 1 | .accumulating => 2 | .complete => 3 | .stopped => 4) ∧
    debugRead s 1 = .word (if s.dem.mode = .tone then 1 else 0) ∧
    debugRead s 2 = .word s.dem.sens.toNat ∧ debugRead s 3 = .word s.dem.dur.toNat ∧
    debugRead s 4 = .word (match s.dem.level with | none => 0 | some .low => 1 | some .high => 2) ∧
    debugRead s 5 = .word (match s.dem.freq with | none => 0 | some .f600 => 1 | some .f1000 => 2) ∧
    debugRead s 6 = .word s.dem.tstart.toNat ∧ debugRead s 7 = .word s.dem.count.toNat ∧
    debugRead s 8 = .word s.dem.buf.length ∧ debugRead s 9 = .word s.dem.hist.length ∧
    debugRead s 10 = .text s.dem.preview.length s.dem.preview ∧ debugRead s 11 = .text s.dem.final.length s.dem.final ∧
    debugRead s 12 = .word (if s.dem.cfgErr = true then 1 else 0) ∧
    debugRead s 16 = .word (match s.mod.fsm with | .idle => 0 | .run => 1 | .done => 2 | .cancelled => 3) ∧
    debugRead s 17 = .word (if s.mod.mode = .tone then 1 else 0) ∧
    debugRead s 18 = .word s.mod.dur.toNat ∧ debugRead s 19 = .word s.mod.len.toNat ∧
    debugRead s 20 = .word s.mod.k.toNat ∧
    debugRead s 21 = .word (if s.mod.cancel = true then 1 else 0) ∧
    debugRead s 22 = .word (if s.mod.err = true then 1 else 0) ∧
    (∀ i, (13 ≤ i ∧ i ≤ 15) ∨ 23 ≤ i → debugRead s i = .word 0)
end

