-- ==== Sys2Proof/Laws/BitString.lean ====
section
/-! SUPPORT. Bit strings: what `find` answers, the lengths of `sub` and `last`, and the byte codec there and back. -/

namespace Sys2Proof.Machine

open Sys2Proof

@[simp] theorem bits8_length (v : Byte) : (bits8 v).length = 8 := rfl

@[simp] theorem startMarker_length : Config.startMarker.length = 8 := rfl

@[simp] theorem endMarker_length : Config.endMarker.length = 8 := rfl

theorem bitSub_length (s : Bits) (i n : Nat) (h : i + n ≤ s.length) : (bitSub s i n).length = n := by
  simp [bitSub]; omega

theorem bitLast_length (s : Bits) (n : Nat) : (bitLast s n).length = min n s.length := by
  simp [bitLast]; omega

/-- `last(s, n)` is an end of `s`. -/
theorem bitLast_suffix (s : Bits) (n : Nat) : bitLast s n <:+ s := List.drop_suffix _ _

theorem bitLast_eq_self (s : Bits) (n : Nat) (h : s.length ≤ n) : bitLast s n = s := by
  simp [bitLast, Nat.sub_eq_zero_of_le h]

theorem bitSub_append_left (s t : Bits) (i n : Nat) (h : i + n ≤ s.length) : bitSub (s ++ t) i n = bitSub s i n := by
  simp only [bitSub]
  rw [List.drop_append_of_le_length (by omega), List.take_append_of_le_length (by simp; omega)]

theorem bitSub_append_right (s t : Bits) (i n : Nat) : bitSub (s ++ t) (s.length + i) n = bitSub t i n := by
  simp [bitSub, List.drop_append, List.drop_eq_nil_of_le (Nat.le_add_right s.length i)]

/-- The 256 bytes survive the codec (R92). -/
theorem val8_bits8 (v : Byte) : val8 (bits8 v) = v := by
  revert v; decide

theorem flatMap_bits8_length (p : List Byte) : (p.flatMap bits8).length = 8 * p.length := by
  induction p with
  | nil => rfl
  | cons v p ih => simp [ih]; omega

@[simp] theorem frameOf_length (p : List Byte) : (frameOf p).length = 16 + 8 * p.length := by
  simp only [frameOf, List.length_append, flatMap_bits8_length, startMarker_length, endMarker_length]
  omega

/-- Byte j of a payload stands at bit 8·j of its bits. -/
theorem bitSub_flatMap_bits8 (p : List Byte) (j : Nat) (h : j < p.length) :
    bitSub (p.flatMap bits8) (8 * j) 8 = bits8 p[j] := by
  induction p generalizing j with
  | nil => simp at h
  | cons v p ih =>
    cases j with
    | zero => simp [bitSub, List.take_append]
    | succ j =>
      have : 8 * (j + 1) = (bits8 v).length + 8 * j := by simp; omega
      rw [List.flatMap_cons, this, bitSub_append_right, ih j (by simpa using h)]
      rfl

/-- A pattern stands at index i exactly when it starts what is left of the string there. -/
theorem bitSub_eq_iff_prefix (s pat : Bits) (i : Nat) : bitSub s i pat.length = pat ↔ pat <+: s.drop i := by
  rw [List.prefix_iff_eq_take]
  exact eq_comm

/-- Every answer of the search loop: the least position, and NONE only when there is none. -/
theorem bitFindAt_spec (pat s : Bits) (idx : Nat) :
    (∀ i, bitFindAt pat s idx = some i →
      ∃ k, i = idx + k ∧ k ≤ s.length ∧ bitSub s k pat.length = pat ∧ ∀ j < k, bitSub s j pat.length ≠ pat) ∧
    (bitFindAt pat s idx = none → ∀ k ≤ s.length, bitSub s k pat.length ≠ pat) := by
  induction s generalizing idx with
  | nil =>
    unfold bitFindAt
    split_ifs with h
    · refine ⟨fun i hi => ⟨0, ?_, ?_, ?_, ?_⟩, fun h' => by simp at h'⟩
      · simpa using hi.symm
      · simp
      · simp [h, bitSub]
      · simp
    · refine ⟨fun i hi => by simp at hi, fun _ k _ e => h ?_⟩
      simpa [bitSub] using e.symm
  | cons b s ih =>
    unfold bitFindAt
    have here : bitSub (b :: s) 0 pat.length = pat ↔ pat.isPrefixOf (b :: s) = true := by
      rw [bitSub_eq_iff_prefix, List.isPrefixOf_iff_prefix]; rfl
    have there (k : Nat) : bitSub (b :: s) (k + 1) pat.length = bitSub s k pat.length := by simp [bitSub]
    split_ifs with h
    · refine ⟨fun i hi => ⟨0, ?_, ?_, here.2 h, ?_⟩, fun h' => by simp at h'⟩
      · simpa using hi.symm
      · simp
      · simp
    · obtain ⟨ih1, ih2⟩ := ih (idx + 1)
      refine ⟨fun i hi => ?_, fun hn k hk => ?_⟩
      · obtain ⟨k, rfl, hk, he, hl⟩ := ih1 i hi
        refine ⟨k + 1, by omega, by simpa using hk, by rw [there, he], fun j hj => ?_⟩
        cases j with
        | zero => exact fun e => h (here.1 e)
        | succ j => rw [there]; exact hl j (by omega)
      · cases k with
        | zero => exact fun e => h (here.1 e)
        | succ k => rw [there]; exact ih2 hn k (by simpa using hk)

/-- An answer of `find` is at or after the start, inside the string, a match, and no earlier index is one. -/
theorem bitFind_some (s pat : Bits) (start i : Nat) (h : bitFind s pat start = some i) :
    start ≤ i ∧ i + pat.length ≤ s.length ∧ bitSub s i pat.length = pat ∧
      ∀ j, start ≤ j → j < i → bitSub s j pat.length ≠ pat := by
  unfold bitFind at h
  split_ifs at h with hs
  obtain ⟨k, rfl, hk, he, hl⟩ := (bitFindAt_spec pat (s.drop start) start).1 i h
  have shift (j : Nat) : bitSub (s.drop start) j pat.length = bitSub s (start + j) pat.length := by
    simp [bitSub, List.drop_drop]
  rw [shift] at he
  refine ⟨by omega, ?_, he, fun j h1 h2 => ?_⟩
  · have := congrArg List.length he
    simp [bitSub] at this hk
    omega
  · have := hl (j - start) (by omega)
    rwa [shift, Nat.add_sub_cancel' h1] at this

/-- `find` answers NONE only when the pattern stands nowhere at or after the start. -/
theorem bitFind_none (s pat : Bits) (start : Nat) (h : bitFind s pat start = none) (j : Nat) (h1 : start ≤ j)
    (h2 : j + pat.length ≤ s.length) : bitSub s j pat.length ≠ pat := by
  unfold bitFind at h
  rw [if_pos (by omega)] at h
  have := (bitFindAt_spec pat (s.drop start) start).2 h (j - start) (by simp; omega)
  simpa [bitSub, List.drop_drop, Nat.add_sub_cancel' h1] using this

/-- `find` answers the index of a match that no earlier index at or after the start is. -/
theorem bitFind_of_least (s pat : Bits) (start i : Nat) (h1 : start ≤ i) (h2 : i + pat.length ≤ s.length)
    (h3 : bitSub s i pat.length = pat) (h4 : ∀ j, start ≤ j → j < i → bitSub s j pat.length ≠ pat) :
    bitFind s pat start = some i := by
  cases hf : bitFind s pat start with
  | none => exact absurd h3 (bitFind_none s pat start hf i h1 h2)
  | some k =>
    obtain ⟨a, _, c, d⟩ := bitFind_some s pat start k hf
    rcases lt_trichotomy k i with hki | rfl | hik
    · exact absurd c (h4 k a hki)
    · rfl
    · exact absurd h3 (d i h1 hik)

end Sys2Proof.Machine
end

