-- ==== Sys2Proof/Laws/Decode.lean ====
section
/-! SUPPORT. Reading a field of a word that is built of fields: the field lies in the high part, or in the low part. -/

namespace Sys2Proof

/-- A field that starts at or above the low part is a field of the high part. -/
theorem extract_append_high (m k : Nat) (x : BitVec m) (y : BitVec k) (start len : Nat) (h : k ≤ start) :
    (x ++ y).extractLsb' start len = x.extractLsb' (start - k) len := by
  ext i hi
  simp only [BitVec.getElem_extractLsb', BitVec.getLsbD_append]
  rw [if_neg (by omega), show start + i - k = start - k + i by omega]

/-- A field that ends inside the low part is a field of the low part. -/
theorem extract_append_low (m k : Nat) (x : BitVec m) (y : BitVec k) (start len : Nat) (h : start + len ≤ k) :
    (x ++ y).extractLsb' start len = y.extractLsb' start len := by
  ext i hi
  simp only [BitVec.getElem_extractLsb', BitVec.getLsbD_append]
  rw [if_pos (by omega)]

/-- A field of the whole width is the word. -/
theorem extract_whole (k : Nat) (x : BitVec k) : x.extractLsb' 0 k = x := by simp

/-- One bit as a field of width 1. -/
theorem getLsbD_eq_extract (k : Nat) (x : BitVec k) (i : Nat) : x.getLsbD i = (x.extractLsb' i 1).getLsbD 0 := by
  simp

end Sys2Proof
end

