-- ==== Sys2Proof/Laws/FrameDecoder.lean ====
section
/-! SUPPORT. The frame decoder: the texts it can give, and what it answers on whole bytes. -/

namespace Sys2Proof.Machine

open Sys2Proof

/-- One whole byte in front is decoded on its own (R201). -/
theorem decodeBytes_bits8_append (v : Byte) (g : Bits) :
    decodeBytes (bits8 v ++ g) = if printable v then v :: decodeBytes g else decodeBytes g := by
  have h : val8 [v.getLsbD 7, v.getLsbD 6, v.getLsbD 5, v.getLsbD 4, v.getLsbD 3, v.getLsbD 2, v.getLsbD 1,
      v.getLsbD 0] = v := val8_bits8 v
  simp only [bits8, List.cons_append, List.nil_append, decodeBytes, h]

/-- Decoding the bits of whole bytes keeps the printable ones. -/
theorem decodeBytes_flatMap_bits8 (p : List Byte) : decodeBytes (p.flatMap bits8) = p.filter printable := by
  induction p with
  | nil => rfl
  | cons v p ih => rw [List.flatMap_cons, decodeBytes_bits8_append, ih, List.filter_cons]

/-- A decoded text has at most a byte for every 8 bits, and every byte is printable. -/
theorem decodeBytes_text (g : Bits) :
    8 * (decodeBytes g).length ≤ g.length ∧ ∀ v ∈ decodeBytes g, printable v = true := by
  fun_induction decodeBytes g with
  | case1 a b c d e f g h rest hp ih =>
    refine ⟨by simp only [List.length_cons]; omega, fun v hv => ?_⟩
    rcases List.mem_cons.1 hv with rfl | hv
    · exact hp
    · exact ih.2 v hv
  | case2 a b c d e f g h rest hp ih => exact ⟨by simp only [List.length_cons]; omega, ih.2⟩
  | case3 g hg => simp

/-- Every answer of the interior span (R203). -/
theorem interiorText_eq_some (span : Bits) (t : Text) :
    interiorText span = some t ↔
      span.length ≠ 0 ∧ span.length % 8 = 0 ∧ nonBlank (decodeBytes span) = true ∧ t = decodeBytes span := by
  unfold interiorText
  split_ifs with h1 h2
  · simp only [false_iff]
    tauto
  · simp only [Option.some.injEq]
    constructor
    · rintro rfl; exact ⟨by tauto, by tauto, h2, rfl⟩
    · rintro ⟨-, -, -, rfl⟩; rfl
  · simp [h2]

/-- Every answer of the frame search (R203): the two markers, and the text between them. -/
theorem frameSearch_eq_some (buf : Bits) (t : Text) :
    frameSearch buf = some t ↔
      ∃ s e, bitFind buf Config.startMarker 0 = some s ∧ bitFind buf Config.endMarker (s + 8) = some e ∧
        interiorText (bitSub buf (s + 8) (e - (s + 8))) = some t := by
  unfold frameSearch
  cases h1 : bitFind buf Config.startMarker 0 with
  | none => simp
  | some s =>
    simp only [Config.markerLen]
    cases h2 : bitFind buf Config.endMarker (s + 8) with
    | none =>
      simp only [reduceCtorEq, Option.some.injEq, false_iff]
      rintro ⟨s', e', rfl, h, -⟩
      rw [h2] at h; cases h
    | some e =>
      simp only [Option.some.injEq]
      constructor
      · intro h; exact ⟨s, e, rfl, h2, h⟩
      · rintro ⟨s', e', rfl, h, ht⟩
        rw [h2] at h; cases h; exact ht

/-- A text the frame search finds fits its register, is printable and not blank (R30, R64). -/
theorem frameSearch_text (buf : Bits) (t : Text) (h : frameSearch buf = some t) :
    8 * t.length + 16 ≤ buf.length ∧ (∀ v ∈ t, printable v = true) ∧ nonBlank t = true ∧ t ≠ [] := by
  obtain ⟨s, e, h1, h2, h3⟩ := (frameSearch_eq_some buf t).1 h
  obtain ⟨-, -, h5, rfl⟩ := (interiorText_eq_some _ t).1 h3
  obtain ⟨ha, hb, -⟩ := bitFind_some _ _ _ _ h2
  simp only [endMarker_length] at hb
  obtain ⟨hl, hp⟩ := decodeBytes_text (bitSub buf (s + 8) (e - (s + 8)))
  rw [bitSub_length _ _ _ (by omega)] at hl
  refine ⟨by omega, hp, h5, fun h0 => ?_⟩
  rw [h0] at h5
  simp [nonBlank] at h5

/-- Every answer of the preview (R205). -/
theorem previewText_eq_some (buf : Bits) (t : Text) (h : previewText buf = some t) :
    t.length ≤ 24 ∧ ∀ v ∈ t, printable v = true := by
  unfold previewText at h
  simp only at h
  split at h
  · cases h
  · rename_i p hp
    cases h
    obtain ⟨-, hb, -⟩ := bitFind_some _ _ _ _ hp
    simp only [startMarker_length, bitLast_length, Config.previewWin] at hb
    obtain ⟨hl, hv⟩ := decodeBytes_text (bitSub ((bitLast buf Config.previewWin).drop (p + Config.markerLen)) 0
      (8 * (((bitLast buf Config.previewWin).drop (p + Config.markerLen)).length / 8)))
    refine ⟨?_, hv⟩
    rw [bitSub_length _ _ _ (by omega)] at hl
    simp only [List.length_drop, bitLast_length, Config.previewWin, Config.markerLen] at hl ⊢
    omega

end Sys2Proof.Machine
end

