-- ==== Sys2Proof/Laws/Ops.lean ====
section
/-! SUPPORT. What the shared operations over BUF, HIST, the counter and the sequencer can do, once each. -/

namespace Sys2Proof.Machine

open Sys2Proof

/-- BufAppend (R62): the whole string while it fits, its newest 1000 bits when it is longer than 2000. -/
theorem bufAppend_cases (buf : Bits) (b : Bool) :
    (buf.length < 2000 ∧ bufAppend buf b = buf ++ [b]) ∨
    (2000 ≤ buf.length ∧ bufAppend buf b = bitLast (buf ++ [b]) 1000) := by
  unfold bufAppend
  split_ifs with h
  · exact .inr ⟨by simp at h; omega, rfl⟩
  · exact .inl ⟨by simp at h; omega, rfl⟩

theorem bufAppend_length (buf : Bits) (b : Bool) :
    (bufAppend buf b).length = if buf.length < 2000 then buf.length + 1 else 1000 := by
  rcases bufAppend_cases buf b with ⟨h, e⟩ | ⟨h, e⟩
  · simp [e, h]
  · rw [e, bitLast_length, if_neg (by omega)]; simp; omega

theorem bufAppend_ne_nil (buf : Bits) (b : Bool) : bufAppend buf b ≠ [] := by
  intro h
  have := bufAppend_length buf b
  rw [h] at this
  split_ifs at this

/-- What BUF holds after an append is an end of the string it would be without truncation (R27). -/
theorem bufAppend_suffix (buf : Bits) (b : Bool) : bufAppend buf b <:+ buf ++ [b] := by
  rcases bufAppend_cases buf b with ⟨-, e⟩ | ⟨-, e⟩
  · rw [e]
  · rw [e]; exact bitLast_suffix _ _

/-- The appended bit is the newest. -/
theorem bufAppend_getLast? (buf : Bits) (b : Bool) : (bufAppend buf b).getLast? = some b := by
  obtain ⟨t, ht⟩ := bufAppend_suffix buf b
  have h := congrArg List.getLast? ht
  rw [List.getLast?_append] at h
  cases hl : (bufAppend buf b).getLast? with
  | none => exact absurd (List.getLast?_eq_none_iff.1 hl) (bufAppend_ne_nil buf b)
  | some c => simpa [hl] using h

/-- HistPush (R63): the newest 20 records of the ring with the new one. -/
theorem histPush_cases (hist : List HistRec) (r : HistRec) :
    (hist.length < 20 ∧ histPush hist r = hist ++ [r]) ∨
    (20 ≤ hist.length ∧ histPush hist r = (hist ++ [r]).drop (hist.length - 19)) := by
  unfold histPush
  split_ifs with h
  · refine .inr ⟨by simp at h; omega, ?_⟩
    congr 1
    simp only [List.length_append, List.length_singleton, Config.histDepth]
    omega
  · exact .inl ⟨by simp at h; omega, rfl⟩

theorem histPush_length (hist : List HistRec) (r : HistRec) :
    (histPush hist r).length = min (hist.length + 1) 20 := by
  rcases histPush_cases hist r with ⟨h, e⟩ | ⟨h, e⟩ <;> rw [e] <;> simp <;> omega

theorem histPush_suffix (hist : List HistRec) (r : HistRec) : histPush hist r <:+ hist ++ [r] := by
  rcases histPush_cases hist r with ⟨-, e⟩ | ⟨-, e⟩
  · rw [e]
  · rw [e]; exact List.drop_suffix _ _

/-- A ring that is not empty keeps its newest record before the pushed one. -/
theorem histPush_concat (pre : List HistRec) (p r : HistRec) :
    ∃ pre', histPush (pre ++ [p]) r = pre' ++ [p, r] := by
  rcases histPush_cases (pre ++ [p]) r with ⟨-, e⟩ | ⟨h, e⟩
  · exact ⟨pre, by simp [e]⟩
  · refine ⟨pre.drop (pre.length - 18), ?_⟩
    simp only [List.length_append, List.length_singleton] at h
    rw [e, List.append_assoc, List.drop_append_of_le_length (by simp)]
    simp

theorem histPush_nil (r : HistRec) : histPush [] r = [r] := rfl

theorem histPush_getLast? (hist : List HistRec) (r : HistRec) : (histPush hist r).getLast? = some r := by
  rcases List.eq_nil_or_concat hist with rfl | ⟨pre, p, rfl⟩
  · rfl
  · obtain ⟨pre', e⟩ := histPush_concat pre p r
    simp only [List.concat_eq_append, e]
    simp

/-- The counter (R28, R179): one more, unless that does not fit. -/
theorem satInc_toNat (c : BitVec 64) : (satInc c).toNat = min (c.toNat + 1) (2 ^ 64 - 1) := by
  have := c.isLt
  unfold satInc
  split_ifs with h
  · rw [BitVec.toNat_add, Nat.mod_eq_of_lt (by simpa using h)]
    simp; omega
  · simp; omega

/-- The elapsed time (R175): the difference, saturating at 0. -/
theorem elapsed_toNat (ts t : BitVec 64) : (elapsed ts t).toNat = ts.toNat - t.toNat := by
  unfold elapsed
  split_ifs with h
  · exact BitVec.toNat_sub_of_le h
  · simp; omega

/-- The debounce test as a comparison of timestamps (R175). -/
theorem debounce_le_elapsed_iff (ts t : BitVec 64) (mode : Mode) :
    debounce mode ≤ (elapsed ts t).toNat ↔ t.toNat + debounce mode ≤ ts.toNat := by
  rw [elapsed_toNat]
  have : 0 < debounce mode := by cases mode <;> decide
  omega

/-- The conditions that refuse a D_START, written out (R150). -/
theorem badDemodConfig_eq_true (mode : Mode) (sens : BitVec 7) (t : BitVec 32) :
    badDemodConfig mode sens t = true ↔
      sens.toNat < 10 ∨ 90 < sens.toNat ∨ t.toNat < Config.bitdurMin mode ∨ Config.bitdurMax mode < t.toNat := by
  simp only [badDemodConfig, durOutOfRange, Bool.or_eq_true, decide_eq_true_eq, or_assoc, gt_iff_lt]

/-- The conditions that refuse an M_START, written out (R134). -/
theorem badModStart_eq_true (pm : Nat) (mode : Mode) (n : BitVec 16) (t : BitVec 32) :
    badModStart pm mode n t = true ↔
      n.toNat = 0 ∨ pm < n.toNat ∨ t.toNat = 0 ∨ t.toNat < Config.bitdurMin mode ∨ Config.bitdurMax mode < t.toNat := by
  simp only [badModStart, durOutOfRange, Bool.or_eq_true, decide_eq_true_eq, or_assoc, gt_iff_lt]

/-- SyncDur (R107): it never wraps. -/
theorem syncDur_toNat (t : BitVec 32) : (syncDur t).toNat = 3 * t.toNat / 10 := by
  have := t.isLt
  unfold syncDur
  rw [BitVec.toNat_ofNat]
  exact Nat.mod_eq_of_lt (by simp only [Config.syncNum, Config.syncDen]; omega)

/-- Ending a session (R151): outside a session nothing changes, inside one everything is discarded. -/
theorem Demod.tearDown_cases (d : Demod) :
    (d.fsm.active = false ∧ d.tearDown = d) ∨
    (d.fsm.active = true ∧ d.tearDown = { d.fresh with fsm := .stopped }) := by
  unfold Demod.tearDown
  split_ifs with h
  · exact .inr ⟨h, rfl⟩
  · exact .inl ⟨by simpa using h, rfl⟩

/-- Ending a sequence (R134): outside M_RUN nothing changes and nothing is answered. -/
theorem Modulator.tearDown_cases (m : Modulator) :
    (m.fsm ≠ .run ∧ m.tearDown = (m, Cmd.none)) ∨
    (m.fsm = .run ∧ m.tearDown = ({ m with fsm := .cancelled, cancel := false }, Cmd.closing)) := by
  unfold Modulator.tearDown
  split_ifs with h
  · exact .inr ⟨h, rfl⟩
  · exact .inl ⟨h, rfl⟩

end Sys2Proof.Machine
end

