-- ==== Sys2Proof/Laws/State.lean ====
section
/-! SUPPORT. One lemma per field for each update of the state that the meanings use, true by rfl and in the simp set, so
that no proof unfolds a record update. -/

namespace Sys2Proof.Machine

open Sys2Proof


/-! An M-port answer writes the MODULATOR and the M port's response. -/

@[simp] theorem State.answerM_dem (s : State) (r : Modulator × Cmd) : (s.answerM r).dem = s.dem := rfl
@[simp] theorem State.answerM_mod (s : State) (r : Modulator × Cmd) : (s.answerM r).mod = r.1 := rfl
@[simp] theorem State.answerM_pay (s : State) (r : Modulator × Cmd) : (s.answerM r).pay = s.pay := rfl
@[simp] theorem State.answerM_straps (s : State) (r : Modulator × Cmd) : (s.answerM r).straps = s.straps := rfl
@[simp] theorem State.answerM_mRsp (s : State) (r : Modulator × Cmd) : (s.answerM r).mRsp = some (MRsp.of r.1 r.2) := rfl
@[simp] theorem State.answerM_dRsp (s : State) (r : Modulator × Cmd) : (s.answerM r).dRsp = s.dRsp := rfl
@[simp] theorem State.answerM_act (s : State) (r : Modulator × Cmd) : (s.answerM r).act = s.act := rfl
@[simp] theorem State.answerM_hand (s : State) (r : Modulator × Cmd) : (s.answerM r).hand = received s.hand r.2 := rfl
@[simp] theorem State.answerM_rst (s : State) (r : Modulator × Cmd) : (s.answerM r).rst = s.rst := rfl
@[simp] theorem State.answerM_inbox (s : State) (r : Modulator × Cmd) : (s.answerM r).inbox = s.inbox := rfl
@[simp] theorem State.answerM_free (s : State) (r : Modulator × Cmd) : (s.answerM r).free = s.free := rfl

/-! A D-port answer writes the DEMODULATOR and the D port's response. -/

@[simp] theorem State.answerD_dem (s : State) (r : Demod × Result) : (s.answerD r).dem = r.1 := rfl
@[simp] theorem State.answerD_mod (s : State) (r : Demod × Result) : (s.answerD r).mod = s.mod := rfl
@[simp] theorem State.answerD_pay (s : State) (r : Demod × Result) : (s.answerD r).pay = s.pay := rfl
@[simp] theorem State.answerD_straps (s : State) (r : Demod × Result) : (s.answerD r).straps = s.straps := rfl
@[simp] theorem State.answerD_mRsp (s : State) (r : Demod × Result) : (s.answerD r).mRsp = s.mRsp := rfl
@[simp] theorem State.answerD_dRsp (s : State) (r : Demod × Result) : (s.answerD r).dRsp = some (DRsp.of r.1 r.2) := rfl
@[simp] theorem State.answerD_act (s : State) (r : Demod × Result) : (s.answerD r).act = s.act := rfl
@[simp] theorem State.answerD_hand (s : State) (r : Demod × Result) : (s.answerD r).hand = s.hand := rfl
@[simp] theorem State.answerD_rst (s : State) (r : Demod × Result) : (s.answerD r).rst = s.rst := rfl
@[simp] theorem State.answerD_inbox (s : State) (r : Demod × Result) : (s.answerD r).inbox = s.inbox := rfl
@[simp] theorem State.answerD_free (s : State) (r : Demod × Result) : (s.answerD r).free = s.free := rfl

/-! Applying a command writes what the actuator holds. -/

@[simp] theorem State.applyCmd_dem (s : State) (c : ChanState) (t : BitVec 32) : (s.applyCmd c t).dem = s.dem := rfl
@[simp] theorem State.applyCmd_mod (s : State) (c : ChanState) (t : BitVec 32) : (s.applyCmd c t).mod = s.mod := rfl
@[simp] theorem State.applyCmd_pay (s : State) (c : ChanState) (t : BitVec 32) : (s.applyCmd c t).pay = s.pay := rfl
@[simp] theorem State.applyCmd_straps (s : State) (c : ChanState) (t : BitVec 32) : (s.applyCmd c t).straps = s.straps := rfl
@[simp] theorem State.applyCmd_mRsp (s : State) (c : ChanState) (t : BitVec 32) : (s.applyCmd c t).mRsp = s.mRsp := rfl
@[simp] theorem State.applyCmd_dRsp (s : State) (c : ChanState) (t : BitVec 32) : (s.applyCmd c t).dRsp = s.dRsp := rfl
@[simp] theorem State.applyCmd_act (s : State) (c : ChanState) (t : BitVec 32) : (s.applyCmd c t).act = some ⟨c, t⟩ := rfl
@[simp] theorem State.applyCmd_hand (s : State) (c : ChanState) (t : BitVec 32) : (s.applyCmd c t).hand = s.hand := rfl
@[simp] theorem State.applyCmd_rst (s : State) (c : ChanState) (t : BitVec 32) : (s.applyCmd c t).rst = s.rst := rfl
@[simp] theorem State.applyCmd_inbox (s : State) (c : ChanState) (t : BitVec 32) : (s.applyCmd c t).inbox = s.inbox := rfl
@[simp] theorem State.applyCmd_free (s : State) (c : ChanState) (t : BitVec 32) : (s.applyCmd c t).free = s.free := rfl

/-! `Fresh()` (R34). -/

@[simp] theorem Demod.fresh_fsm (d : Demod) : (d.fresh).fsm = d.fsm := rfl
@[simp] theorem Demod.fresh_mode (d : Demod) : (d.fresh).mode = d.mode := rfl
@[simp] theorem Demod.fresh_sens (d : Demod) : (d.fresh).sens = d.sens := rfl
@[simp] theorem Demod.fresh_dur (d : Demod) : (d.fresh).dur = d.dur := rfl
@[simp] theorem Demod.fresh_level (d : Demod) : (d.fresh).level = none := rfl
@[simp] theorem Demod.fresh_freq (d : Demod) : (d.fresh).freq = none := rfl
@[simp] theorem Demod.fresh_tstart (d : Demod) : (d.fresh).tstart = 0 := rfl
@[simp] theorem Demod.fresh_hist (d : Demod) : (d.fresh).hist = [] := rfl
@[simp] theorem Demod.fresh_buf (d : Demod) : (d.fresh).buf = [] := rfl
@[simp] theorem Demod.fresh_count (d : Demod) : (d.fresh).count = 0 := rfl
@[simp] theorem Demod.fresh_preview (d : Demod) : (d.fresh).preview = [] := rfl
@[simp] theorem Demod.fresh_final (d : Demod) : (d.fresh).final = [] := rfl
@[simp] theorem Demod.fresh_cfgErr (d : Demod) : (d.fresh).cfgErr = d.cfgErr := rfl

/-! The refused D_START (R232). -/

@[simp] theorem Demod.raiseBadConfig_fsm (d : Demod) : (d.raiseBadConfig).fsm = d.fsm := rfl
@[simp] theorem Demod.raiseBadConfig_mode (d : Demod) : (d.raiseBadConfig).mode = d.mode := rfl
@[simp] theorem Demod.raiseBadConfig_sens (d : Demod) : (d.raiseBadConfig).sens = d.sens := rfl
@[simp] theorem Demod.raiseBadConfig_dur (d : Demod) : (d.raiseBadConfig).dur = d.dur := rfl
@[simp] theorem Demod.raiseBadConfig_level (d : Demod) : (d.raiseBadConfig).level = d.level := rfl
@[simp] theorem Demod.raiseBadConfig_freq (d : Demod) : (d.raiseBadConfig).freq = d.freq := rfl
@[simp] theorem Demod.raiseBadConfig_tstart (d : Demod) : (d.raiseBadConfig).tstart = d.tstart := rfl
@[simp] theorem Demod.raiseBadConfig_hist (d : Demod) : (d.raiseBadConfig).hist = d.hist := rfl
@[simp] theorem Demod.raiseBadConfig_buf (d : Demod) : (d.raiseBadConfig).buf = d.buf := rfl
@[simp] theorem Demod.raiseBadConfig_count (d : Demod) : (d.raiseBadConfig).count = d.count := rfl
@[simp] theorem Demod.raiseBadConfig_preview (d : Demod) : (d.raiseBadConfig).preview = d.preview := rfl
@[simp] theorem Demod.raiseBadConfig_final (d : Demod) : (d.raiseBadConfig).final = d.final := rfl
@[simp] theorem Demod.raiseBadConfig_cfgErr (d : Demod) : (d.raiseBadConfig).cfgErr = true := rfl

/-! A new session (R150). -/

@[simp] theorem Demod.arm_fsm (d : Demod) (mode : Mode) (sens : BitVec 7) (t : BitVec 32) : (d.arm mode sens t).fsm = .armed := rfl
@[simp] theorem Demod.arm_mode (d : Demod) (mode : Mode) (sens : BitVec 7) (t : BitVec 32) : (d.arm mode sens t).mode = mode := rfl
@[simp] theorem Demod.arm_sens (d : Demod) (mode : Mode) (sens : BitVec 7) (t : BitVec 32) : (d.arm mode sens t).sens = sens := rfl
@[simp] theorem Demod.arm_dur (d : Demod) (mode : Mode) (sens : BitVec 7) (t : BitVec 32) : (d.arm mode sens t).dur = t := rfl
@[simp] theorem Demod.arm_level (d : Demod) (mode : Mode) (sens : BitVec 7) (t : BitVec 32) : (d.arm mode sens t).level = none := rfl
@[simp] theorem Demod.arm_freq (d : Demod) (mode : Mode) (sens : BitVec 7) (t : BitVec 32) : (d.arm mode sens t).freq = none := rfl
@[simp] theorem Demod.arm_tstart (d : Demod) (mode : Mode) (sens : BitVec 7) (t : BitVec 32) : (d.arm mode sens t).tstart = 0 := rfl
@[simp] theorem Demod.arm_hist (d : Demod) (mode : Mode) (sens : BitVec 7) (t : BitVec 32) : (d.arm mode sens t).hist = [] := rfl
@[simp] theorem Demod.arm_buf (d : Demod) (mode : Mode) (sens : BitVec 7) (t : BitVec 32) : (d.arm mode sens t).buf = [] := rfl
@[simp] theorem Demod.arm_count (d : Demod) (mode : Mode) (sens : BitVec 7) (t : BitVec 32) : (d.arm mode sens t).count = 0 := rfl
@[simp] theorem Demod.arm_preview (d : Demod) (mode : Mode) (sens : BitVec 7) (t : BitVec 32) : (d.arm mode sens t).preview = [] := rfl
@[simp] theorem Demod.arm_final (d : Demod) (mode : Mode) (sens : BitVec 7) (t : BitVec 32) : (d.arm mode sens t).final = [] := rfl
@[simp] theorem Demod.arm_cfgErr (d : Demod) (mode : Mode) (sens : BitVec 7) (t : BitVec 32) : (d.arm mode sens t).cfgErr = false := rfl

/-! A new current-state record (R174). -/

@[simp] theorem Demod.begin_fsm (d : Demod) (lvl : Lvl) (f : Option Band) (ts : BitVec 64) : (d.begin lvl f ts).fsm = d.fsm := rfl
@[simp] theorem Demod.begin_mode (d : Demod) (lvl : Lvl) (f : Option Band) (ts : BitVec 64) : (d.begin lvl f ts).mode = d.mode := rfl
@[simp] theorem Demod.begin_sens (d : Demod) (lvl : Lvl) (f : Option Band) (ts : BitVec 64) : (d.begin lvl f ts).sens = d.sens := rfl
@[simp] theorem Demod.begin_dur (d : Demod) (lvl : Lvl) (f : Option Band) (ts : BitVec 64) : (d.begin lvl f ts).dur = d.dur := rfl
@[simp] theorem Demod.begin_level (d : Demod) (lvl : Lvl) (f : Option Band) (ts : BitVec 64) : (d.begin lvl f ts).level = some lvl := rfl
@[simp] theorem Demod.begin_freq (d : Demod) (lvl : Lvl) (f : Option Band) (ts : BitVec 64) : (d.begin lvl f ts).freq = f := rfl
@[simp] theorem Demod.begin_tstart (d : Demod) (lvl : Lvl) (f : Option Band) (ts : BitVec 64) : (d.begin lvl f ts).tstart = ts := rfl
@[simp] theorem Demod.begin_hist (d : Demod) (lvl : Lvl) (f : Option Band) (ts : BitVec 64) : (d.begin lvl f ts).hist = d.hist := rfl
@[simp] theorem Demod.begin_buf (d : Demod) (lvl : Lvl) (f : Option Band) (ts : BitVec 64) : (d.begin lvl f ts).buf = d.buf := rfl
@[simp] theorem Demod.begin_count (d : Demod) (lvl : Lvl) (f : Option Band) (ts : BitVec 64) : (d.begin lvl f ts).count = d.count := rfl
@[simp] theorem Demod.begin_preview (d : Demod) (lvl : Lvl) (f : Option Band) (ts : BitVec 64) : (d.begin lvl f ts).preview = d.preview := rfl
@[simp] theorem Demod.begin_final (d : Demod) (lvl : Lvl) (f : Option Band) (ts : BitVec 64) : (d.begin lvl f ts).final = d.final := rfl
@[simp] theorem Demod.begin_cfgErr (d : Demod) (lvl : Lvl) (f : Option Band) (ts : BitVec 64) : (d.begin lvl f ts).cfgErr = d.cfgErr := rfl

/-! An accepted transition (R176). -/

@[simp] theorem Demod.accept_fsm (d : Demod) (e : Lvl) (el : BitVec 64) (lvl : Lvl) (f : Option Band) (ts : BitVec 64) : (d.accept e el lvl f ts).fsm = if d.fsm = .armed then .accumulating else d.fsm := rfl
@[simp] theorem Demod.accept_mode (d : Demod) (e : Lvl) (el : BitVec 64) (lvl : Lvl) (f : Option Band) (ts : BitVec 64) : (d.accept e el lvl f ts).mode = d.mode := rfl
@[simp] theorem Demod.accept_sens (d : Demod) (e : Lvl) (el : BitVec 64) (lvl : Lvl) (f : Option Band) (ts : BitVec 64) : (d.accept e el lvl f ts).sens = d.sens := rfl
@[simp] theorem Demod.accept_dur (d : Demod) (e : Lvl) (el : BitVec 64) (lvl : Lvl) (f : Option Band) (ts : BitVec 64) : (d.accept e el lvl f ts).dur = d.dur := rfl
@[simp] theorem Demod.accept_level (d : Demod) (e : Lvl) (el : BitVec 64) (lvl : Lvl) (f : Option Band) (ts : BitVec 64) : (d.accept e el lvl f ts).level = some lvl := rfl
@[simp] theorem Demod.accept_freq (d : Demod) (e : Lvl) (el : BitVec 64) (lvl : Lvl) (f : Option Band) (ts : BitVec 64) : (d.accept e el lvl f ts).freq = f := rfl
@[simp] theorem Demod.accept_tstart (d : Demod) (e : Lvl) (el : BitVec 64) (lvl : Lvl) (f : Option Band) (ts : BitVec 64) : (d.accept e el lvl f ts).tstart = ts := rfl
@[simp] theorem Demod.accept_hist (d : Demod) (e : Lvl) (el : BitVec 64) (lvl : Lvl) (f : Option Band) (ts : BitVec 64) : (d.accept e el lvl f ts).hist = histPush d.hist ⟨e, el, d.freq⟩ := rfl
@[simp] theorem Demod.accept_buf (d : Demod) (e : Lvl) (el : BitVec 64) (lvl : Lvl) (f : Option Band) (ts : BitVec 64) : (d.accept e el lvl f ts).buf = d.buf := rfl
@[simp] theorem Demod.accept_count (d : Demod) (e : Lvl) (el : BitVec 64) (lvl : Lvl) (f : Option Band) (ts : BitVec 64) : (d.accept e el lvl f ts).count = d.count := rfl
@[simp] theorem Demod.accept_preview (d : Demod) (e : Lvl) (el : BitVec 64) (lvl : Lvl) (f : Option Band) (ts : BitVec 64) : (d.accept e el lvl f ts).preview = d.preview := rfl
@[simp] theorem Demod.accept_final (d : Demod) (e : Lvl) (el : BitVec 64) (lvl : Lvl) (f : Option Band) (ts : BitVec 64) : (d.accept e el lvl f ts).final = d.final := rfl
@[simp] theorem Demod.accept_cfgErr (d : Demod) (e : Lvl) (el : BitVec 64) (lvl : Lvl) (f : Option Band) (ts : BitVec 64) : (d.accept e el lvl f ts).cfgErr = d.cfgErr := rfl

/-! An accumulated bit (R179). -/

@[simp] theorem Demod.accumulate_fsm (d : Demod) (b : Bool) : (d.accumulate b).fsm = d.fsm := rfl
@[simp] theorem Demod.accumulate_mode (d : Demod) (b : Bool) : (d.accumulate b).mode = d.mode := rfl
@[simp] theorem Demod.accumulate_sens (d : Demod) (b : Bool) : (d.accumulate b).sens = d.sens := rfl
@[simp] theorem Demod.accumulate_dur (d : Demod) (b : Bool) : (d.accumulate b).dur = d.dur := rfl
@[simp] theorem Demod.accumulate_level (d : Demod) (b : Bool) : (d.accumulate b).level = d.level := rfl
@[simp] theorem Demod.accumulate_freq (d : Demod) (b : Bool) : (d.accumulate b).freq = d.freq := rfl
@[simp] theorem Demod.accumulate_tstart (d : Demod) (b : Bool) : (d.accumulate b).tstart = d.tstart := rfl
@[simp] theorem Demod.accumulate_hist (d : Demod) (b : Bool) : (d.accumulate b).hist = d.hist := rfl
@[simp] theorem Demod.accumulate_buf (d : Demod) (b : Bool) : (d.accumulate b).buf = bufAppend d.buf b := rfl
@[simp] theorem Demod.accumulate_count (d : Demod) (b : Bool) : (d.accumulate b).count = satInc d.count := rfl
@[simp] theorem Demod.accumulate_preview (d : Demod) (b : Bool) : (d.accumulate b).preview = d.preview := rfl
@[simp] theorem Demod.accumulate_final (d : Demod) (b : Bool) : (d.accumulate b).final = d.final := rfl
@[simp] theorem Demod.accumulate_cfgErr (d : Demod) (b : Bool) : (d.accumulate b).cfgErr = d.cfgErr := rfl

/-! The refused M_START (R233). -/

@[simp] theorem Modulator.raiseBadStart_fsm (m : Modulator) : (m.raiseBadStart).fsm = m.fsm := rfl
@[simp] theorem Modulator.raiseBadStart_mode (m : Modulator) : (m.raiseBadStart).mode = m.mode := rfl
@[simp] theorem Modulator.raiseBadStart_dur (m : Modulator) : (m.raiseBadStart).dur = m.dur := rfl
@[simp] theorem Modulator.raiseBadStart_frame (m : Modulator) : (m.raiseBadStart).frame = m.frame := rfl
@[simp] theorem Modulator.raiseBadStart_len (m : Modulator) : (m.raiseBadStart).len = m.len := rfl
@[simp] theorem Modulator.raiseBadStart_k (m : Modulator) : (m.raiseBadStart).k = m.k := rfl
@[simp] theorem Modulator.raiseBadStart_cancel (m : Modulator) : (m.raiseBadStart).cancel = m.cancel := rfl
@[simp] theorem Modulator.raiseBadStart_err (m : Modulator) : (m.raiseBadStart).err = true := rfl

/-! A new sequence (R134). -/

@[simp] theorem Modulator.load_fsm (m : Modulator) (mode : Mode) (t : BitVec 32) (p : List Byte) : (m.load mode t p).fsm = .run := rfl
@[simp] theorem Modulator.load_mode (m : Modulator) (mode : Mode) (t : BitVec 32) (p : List Byte) : (m.load mode t p).mode = mode := rfl
@[simp] theorem Modulator.load_dur (m : Modulator) (mode : Mode) (t : BitVec 32) (p : List Byte) : (m.load mode t p).dur = t := rfl
@[simp] theorem Modulator.load_frame (m : Modulator) (mode : Mode) (t : BitVec 32) (p : List Byte) : (m.load mode t p).frame = frameOf p := rfl
@[simp] theorem Modulator.load_len (m : Modulator) (mode : Mode) (t : BitVec 32) (p : List Byte) : (m.load mode t p).len = BitVec.ofNat 16 (16 + 8 * p.length) := rfl
@[simp] theorem Modulator.load_k (m : Modulator) (mode : Mode) (t : BitVec 32) (p : List Byte) : (m.load mode t p).k = 0 := rfl
@[simp] theorem Modulator.load_cancel (m : Modulator) (mode : Mode) (t : BitVec 32) (p : List Byte) : (m.load mode t p).cancel = false := rfl
@[simp] theorem Modulator.load_err (m : Modulator) (mode : Mode) (t : BitVec 32) (p : List Byte) : (m.load mode t p).err = false := rfl

/-! RESET on the DEMODULATOR (R260). -/

@[simp] theorem Demod.afterReset_fsm (d : Demod) (n : Nat) : (d.afterReset n).fsm = .idle := rfl
@[simp] theorem Demod.afterReset_mode (d : Demod) (n : Nat) : (d.afterReset n).mode = Config.resetDMode n := rfl
@[simp] theorem Demod.afterReset_sens (d : Demod) (n : Nat) : (d.afterReset n).sens = Config.resetDSens n := rfl
@[simp] theorem Demod.afterReset_dur (d : Demod) (n : Nat) : (d.afterReset n).dur = Config.resetDDur n := rfl
@[simp] theorem Demod.afterReset_level (d : Demod) (n : Nat) : (d.afterReset n).level = none := rfl
@[simp] theorem Demod.afterReset_freq (d : Demod) (n : Nat) : (d.afterReset n).freq = none := rfl
@[simp] theorem Demod.afterReset_tstart (d : Demod) (n : Nat) : (d.afterReset n).tstart = 0 := rfl
@[simp] theorem Demod.afterReset_hist (d : Demod) (n : Nat) : (d.afterReset n).hist = [] := rfl
@[simp] theorem Demod.afterReset_buf (d : Demod) (n : Nat) : (d.afterReset n).buf = [] := rfl
@[simp] theorem Demod.afterReset_count (d : Demod) (n : Nat) : (d.afterReset n).count = 0 := rfl
@[simp] theorem Demod.afterReset_preview (d : Demod) (n : Nat) : (d.afterReset n).preview = [] := rfl
@[simp] theorem Demod.afterReset_final (d : Demod) (n : Nat) : (d.afterReset n).final = [] := rfl
@[simp] theorem Demod.afterReset_cfgErr (d : Demod) (n : Nat) : (d.afterReset n).cfgErr = false := rfl

/-! RESET on the MODULATOR (R260). -/

@[simp] theorem Modulator.afterReset_fsm (m : Modulator) (n : Nat) : (m.afterReset n).fsm = .idle := rfl
@[simp] theorem Modulator.afterReset_mode (m : Modulator) (n : Nat) : (m.afterReset n).mode = Config.resetMMode n := rfl
@[simp] theorem Modulator.afterReset_dur (m : Modulator) (n : Nat) : (m.afterReset n).dur = Config.resetMDur n := rfl
@[simp] theorem Modulator.afterReset_frame (m : Modulator) (n : Nat) : (m.afterReset n).frame = [] := rfl
@[simp] theorem Modulator.afterReset_len (m : Modulator) (n : Nat) : (m.afterReset n).len = 0 := rfl
@[simp] theorem Modulator.afterReset_k (m : Modulator) (n : Nat) : (m.afterReset n).k = 0 := rfl
@[simp] theorem Modulator.afterReset_cancel (m : Modulator) (n : Nat) : (m.afterReset n).cancel = false := rfl
@[simp] theorem Modulator.afterReset_err (m : Modulator) (n : Nat) : (m.afterReset n).err = false := rfl

/-! The responses repeat the registers (R97, R101). -/

@[simp] theorem DRsp.of_result (d : Demod) (r : Result) : (DRsp.of d r).result = r := rfl
@[simp] theorem DRsp.of_levelOut (d : Demod) (r : Result) : (DRsp.of d r).levelOut = d.level := rfl
@[simp] theorem DRsp.of_freqOut (d : Demod) (r : Result) : (DRsp.of d r).freqOut = d.freq := rfl
@[simp] theorem DRsp.of_liveLen (d : Demod) (r : Result) : (DRsp.of d r).liveLen = Machine.liveLen d.buf := rfl
@[simp] theorem DRsp.of_liveBits (d : Demod) (r : Result) : (DRsp.of d r).liveBits = Machine.liveBits d.buf := rfl
@[simp] theorem DRsp.of_count (d : Demod) (r : Result) : (DRsp.of d r).count = d.count := rfl
@[simp] theorem DRsp.of_fsm (d : Demod) (r : Result) : (DRsp.of d r).fsm = d.fsm := rfl
@[simp] theorem DRsp.of_cfgErr (d : Demod) (r : Result) : (DRsp.of d r).cfgErr = d.cfgErr := rfl

/-! The M port's response (R97). -/

@[simp] theorem MRsp.of_cmd (m : Modulator) (c : Cmd) : (MRsp.of m c).cmd = c := rfl
@[simp] theorem MRsp.of_fsm (m : Modulator) (c : Cmd) : (MRsp.of m c).fsm = m.fsm := rfl
@[simp] theorem MRsp.of_err (m : Modulator) (c : Cmd) : (MRsp.of m c).err = m.err := rfl

end Sys2Proof.Machine
end

