-- ==== Sys2Proof/Laws/Meanings.lean ====
section
/-! SUPPORT. What each operation with cases can do, said once: the guards of every case and the result, so that a proof
about an operation cites these instead of unfolding its meaning. -/

namespace Sys2Proof.Machine

open Sys2Proof

/-- D_START (R150): refused after the tear-down, or a new session. -/
theorem Demod.start_cases (mode : Mode) (sens : BitVec 7) (t : BitVec 32) (d : Demod) :
    (badDemodConfig mode sens t = true ∧ d.start mode sens t = d.tearDown.raiseBadConfig) ∨
    (badDemodConfig mode sens t = false ∧ d.start mode sens t = d.tearDown.arm mode sens t) := by
  unfold Demod.start
  split_ifs with h
  · exact .inl ⟨h, rfl⟩
  · exact .inr ⟨by simpa using h, rfl⟩

/-- M_START (R134): the tear-down's answer, and refused or loaded. -/
theorem Modulator.start_cases (pm : Nat) (pay : Memory) (mode : Mode) (n : BitVec 16) (t : BitVec 32)
    (m : Modulator) :
    (badModStart pm mode n t = true ∧ m.start pm pay mode n t = (m.tearDown.1.raiseBadStart, m.tearDown.2)) ∨
    (badModStart pm mode n t = false ∧
      m.start pm pay mode n t = (m.tearDown.1.load mode t (payload pay n.toNat), m.tearDown.2)) := by
  unfold Modulator.start
  simp only
  split_ifs with h
  · exact .inl ⟨h, rfl⟩
  · exact .inr ⟨by simpa using h, rfl⟩

/-- M_STEP (R135): not running, cancelled, at the end, or a frame command. -/
theorem Modulator.step_cases (m : Modulator) :
    (m.fsm ≠ .run ∧ m.step = (m, Cmd.none)) ∨
    (m.fsm = .run ∧ m.cancel = true ∧ m.step = ({ m with cancel := false, fsm := .cancelled }, Cmd.closing)) ∨
    (m.fsm = .run ∧ m.cancel = false ∧ m.k.toNat = m.total ∧ m.step = ({ m with fsm := .done }, Cmd.closing)) ∨
    (m.fsm = .run ∧ m.cancel = false ∧ m.k.toNat ≠ m.total ∧
      m.step = ({ m with k := m.k + 1 }, frameCmd m.mode m.frame m.dur m.k.toNat)) := by
  unfold Modulator.step
  split_ifs with h1 h2 h3
  · exact .inr (.inl ⟨h1, h2, rfl⟩)
  · exact .inr (.inr (.inl ⟨h1, by simpa using h2, h3, rfl⟩))
  · exact .inr (.inr (.inr ⟨h1, by simpa using h2, h3, rfl⟩))
  · exact .inl ⟨h1, rfl⟩

/-- M_CANCEL (R136): latched while running. -/
theorem Modulator.requestCancel_cases (m : Modulator) :
    (m.fsm ≠ .run ∧ m.requestCancel = m) ∨ (m.fsm = .run ∧ m.requestCancel = { m with cancel := true }) := by
  unfold Modulator.requestCancel
  split_ifs with h
  · exact .inr ⟨h, rfl⟩
  · exact .inl ⟨h, rfl⟩

/-- A frame command is valid and not the closing one (R132, R133). -/
theorem frameCmd_valid (mode : Mode) (f : Bits) (t : BitVec 32) (k : Nat) :
    (frameCmd mode f t k).valid = true ∧ (frameCmd mode f t k).last = false := by
  unfold frameCmd
  cases mode
  · simp only; split_ifs <;> exact ⟨rfl, rfl⟩
  · exact ⟨rfl, rfl⟩

/-- Stage 6 (R206): a preview that differs from the last one shown, or nothing. -/
theorem Demod.previewStage_cases (d : Demod) :
    (∃ p, 100 < d.buf.length ∧ previewText d.buf = some p ∧ p ≠ d.preview ∧
      d.previewStage = ({ d with preview := p }, .partialText p)) ∨
    ((d.buf.length ≤ 100 ∨ previewText d.buf = none ∨ previewText d.buf = some d.preview) ∧
      d.previewStage = (d, .pending)) := by
  unfold Demod.previewStage
  split_ifs with h1
  · split
    · rename_i h; exact .inr ⟨.inr (.inl h), rfl⟩
    · rename_i p h
      split_ifs with h2
      · exact .inr ⟨.inr (.inr (by rw [h, h2])), rfl⟩
      · exact .inl ⟨p, h1, h, h2, rfl⟩
  · exact .inr ⟨.inl (by simpa using h1), rfl⟩

/-- Stage 5 (R204): the frame is found, or stage 6 decides. -/
theorem Demod.searchStage_cases (d : Demod) :
    (∃ t, 50 < d.buf.length ∧ frameSearch d.buf = some t ∧
      d.searchStage = ({ d with final := t, fsm := .complete }, .complete t)) ∨
    ((d.buf.length ≤ 50 ∨ frameSearch d.buf = none) ∧ d.searchStage = d.previewStage) := by
  unfold Demod.searchStage
  split_ifs with h1
  · split
    · rename_i t h; exact .inl ⟨t, h1, h, rfl⟩
    · rename_i h; exact .inr ⟨.inr h, rfl⟩
  · exact .inr ⟨.inl (by simpa using h1), rfl⟩

/-- Stages 3 to 6 (R170): no bit, or a bit accumulated and stages 5 and 6 on the buffer that holds it. -/
theorem Demod.bitStage_cases (d : Demod) :
    (extractBit d.mode d.hist = none ∧ d.bitStage = (d, .pending)) ∨
    (∃ b, extractBit d.mode d.hist = some b ∧ d.bitStage = (d.accumulate b).searchStage) := by
  unfold Demod.bitStage
  split
  · rename_i h; exact .inl ⟨h, rfl⟩
  · rename_i b h; exact .inr ⟨b, h, rfl⟩

/-- D_SAMPLE (R170): completed, outside a session, priming, no accepted transition, or an accepted transition. -/
theorem Demod.sample_cases (tie : Band) (ts : BitVec 64) (a b : BitVec 16) (d : Demod) :
    (d.fsm = .complete ∧ d.sample tie ts a b = (d, .complete d.final)) ∨
    (d.fsm.active = false ∧ d.sample tie ts a b = (d, .pending)) ∨
    ((d.fsm = .armed ∨ d.fsm = .accumulating) ∧ d.level = none ∧
      d.sample tie ts a b =
        (d.begin (binarize tie d.mode d.sens a b).1 (binarize tie d.mode d.sens a b).2 ts, .pending)) ∨
    (∃ l, (d.fsm = .armed ∨ d.fsm = .accumulating) ∧ d.level = some l ∧
      ((binarize tie d.mode d.sens a b).1 = l ∨ (elapsed ts d.tstart).toNat < debounce d.mode) ∧
      d.sample tie ts a b = (d, .pending)) ∨
    (∃ l, (d.fsm = .armed ∨ d.fsm = .accumulating) ∧ d.level = some l ∧
      (binarize tie d.mode d.sens a b).1 ≠ l ∧ debounce d.mode ≤ (elapsed ts d.tstart).toNat ∧
      d.sample tie ts a b =
        (d.accept l (elapsed ts d.tstart) (binarize tie d.mode d.sens a b).1
          (binarize tie d.mode d.sens a b).2 ts).bitStage) := by
  have sense : (d.fsm = .armed ∨ d.fsm = .accumulating) → d.sample tie ts a b = d.senseStage tie ts a b := by
    rintro (h | h) <;> simp only [Demod.sample, h]
  cases hf : d.fsm with
  | complete => exact .inl ⟨rfl, by simp only [Demod.sample, hf]⟩
  | idle => exact .inr (.inl ⟨rfl, by simp only [Demod.sample, hf]⟩)
  | stopped => exact .inr (.inl ⟨rfl, by simp only [Demod.sample, hf]⟩)
  | armed | accumulating =>
    refine .inr (.inr ?_)
    rw [sense (by simp [hf])]
    unfold Demod.senseStage
    cases hl : d.level with
    | none => exact .inl ⟨by simp, rfl, rfl⟩
    | some l =>
      simp only
      split_ifs with h1 h2
      · exact .inr (.inl ⟨l, by simp, rfl, .inl h1, rfl⟩)
      · exact .inr (.inl ⟨l, by simp, rfl, .inr h2, rfl⟩)
      · exact .inr (.inr ⟨l, by simp, rfl, h1, by omega, rfl⟩)

/-- The direction between the two newest records (R177). -/
theorem extractLevel_concat (pre : List HistRec) (p r : HistRec) :
    extractLevel (pre ++ [p, r]) =
      if p.level = .low ∧ r.level = .high then some false
      else if p.level = .high ∧ r.level = .low then some true else none := by
  simp only [extractLevel, List.reverse_append, List.reverse_cons, List.reverse_nil, List.nil_append,
    List.cons_append]
  cases p.level <;> cases r.level <;> rfl

/-- The frequency of the newest record (R178). -/
theorem extractTone_concat (pre : List HistRec) (r : HistRec) :
    extractTone (pre ++ [r]) =
      if r.level = .high then r.freq.map (fun f => decide (f = .f1000)) else none := by
  simp only [extractTone, List.getLast?_append, List.getLast?_singleton, Option.some_or]
  rcases r with ⟨lvl, dur, freq⟩
  cases lvl <;> rcases freq with _ | _ | _ <;> rfl

end Sys2Proof.Machine
end

