-- ==== Sys2Proof/Laws/Memory.lean ====
section
/-! SUPPORT. PAY: a read after a write, the reads a write leaves alone, and the canonical form every write keeps. -/

namespace Sys2Proof.Machine

open Sys2Proof

theorem Memory.wf_nil : Memory.wf [] = true := rfl

/-- The canonical form of a list with a head: the head's value is listed for a reason, its index is below all others. -/
theorem Memory.wf_cons (k : Nat) (v : Byte) (m : Memory) :
    Memory.wf ((k, v) :: m) = true ↔ v ≠ Memory.unlisted ∧ (∀ c ∈ m, k < c.1) ∧ Memory.wf m = true := by
  simp [Memory.wf, and_assoc]

/-- An index that is not listed reads as the unlisted value. -/
theorem Memory.read_of_forall_ne (m : Memory) (i : Nat) (h : ∀ c ∈ m, c.1 ≠ i) :
    Memory.read m i = Memory.unlisted := by
  induction m with
  | nil => rfl
  | cons c m ih =>
    obtain ⟨k, v⟩ := c
    have hk : i ≠ k := fun e => h (k, v) (by simp) e.symm
    simpa [Memory.read, hk] using ih fun c hc => h c (by simp [hc])

/-- A write leaves every other index alone. -/
theorem Memory.read_write_of_ne (m : Memory) (i j : Nat) (v : Byte) (h : j ≠ i) :
    Memory.read (Memory.write m i v) j = Memory.read m j := by
  induction m with
  | nil =>
    unfold Memory.write
    split <;> simp [Memory.read, h]
  | cons c m ih =>
    obtain ⟨k, w⟩ := c
    unfold Memory.write
    split_ifs with h1 h2 h3 h4
    · rfl
    · simp [Memory.read, h]
    · subst h3; simp [Memory.read, h]
    · subst h3; simp [Memory.read, h]
    · simp [Memory.read, ih]

/-- A read after a write of the same index gives the value written, in the canonical form. -/
theorem Memory.read_write_self (m : Memory) (i : Nat) (v : Byte) (h : Memory.wf m = true) :
    Memory.read (Memory.write m i v) i = v := by
  induction m with
  | nil =>
    unfold Memory.write
    split <;> simp_all [Memory.read]
  | cons c m ih =>
    obtain ⟨k, w⟩ := c
    obtain ⟨-, hlt, hm⟩ := (Memory.wf_cons k w m).1 h
    unfold Memory.write
    split_ifs with h1 h2 h3 h4
    · subst h2
      refine Memory.read_of_forall_ne _ _ fun c hc => ?_
      rcases List.mem_cons.1 hc with rfl | hc
      · exact (ne_of_lt h1).symm
      · exact (ne_of_lt (h1.trans (hlt c hc))).symm
    · simp [Memory.read]
    · subst h3 h4
      exact Memory.read_of_forall_ne _ _ fun c hc => (ne_of_lt (hlt c hc)).symm
    · subst h3; simp [Memory.read]
    · simp [Memory.read, h3, ih hm]

/-- The indices listed after a write: those before, and the written one. -/
theorem Memory.mem_write (m : Memory) (i : Nat) (v : Byte) (c : Host.Cell) (h : c ∈ Memory.write m i v) :
    c.1 = i ∨ c ∈ m := by
  induction m with
  | nil =>
    unfold Memory.write at h
    split at h
    · simp at h
    · simp only [List.mem_singleton] at h; exact .inl (by rw [h])
  | cons d m ih =>
    obtain ⟨k, w⟩ := d
    unfold Memory.write at h
    split_ifs at h with h1 h2 h3 h4
    · exact .inr h
    · rcases List.mem_cons.1 h with rfl | h
      · exact .inl rfl
      · exact .inr h
    · exact .inr (List.mem_cons_of_mem _ h)
    · rcases List.mem_cons.1 h with rfl | h
      · exact .inl h3.symm
      · exact .inr (List.mem_cons_of_mem _ h)
    · rcases List.mem_cons.1 h with rfl | h
      · exact .inr (by simp)
      · exact (ih h).imp_right (List.mem_cons_of_mem _)

/-- Every write keeps the canonical form. -/
theorem Memory.wf_write (m : Memory) (i : Nat) (v : Byte) (h : Memory.wf m = true) :
    Memory.wf (Memory.write m i v) = true := by
  induction m with
  | nil =>
    unfold Memory.write
    split <;> simp_all [Memory.wf]
  | cons c m ih =>
    obtain ⟨k, w⟩ := c
    obtain ⟨hw, hlt, hm⟩ := (Memory.wf_cons k w m).1 h
    unfold Memory.write
    split_ifs with h1 h2 h3 h4
    · exact h
    · refine (Memory.wf_cons _ _ _).2 ⟨h2, fun c hc => ?_, h⟩
      rcases List.mem_cons.1 hc with rfl | hc
      · exact h1
      · exact h1.trans (hlt c hc)
    · exact hm
    · exact (Memory.wf_cons _ _ _).2 ⟨h4, hlt, hm⟩
    · refine (Memory.wf_cons _ _ _).2 ⟨hw, fun c hc => ?_, ih hm⟩
      rcases Memory.mem_write m i v c hc with e | hc
      · omega
      · exact hlt c hc

/-- The payload has as many bytes as were asked for. -/
@[simp] theorem payload_length (m : Memory) (n : Nat) : (payload m n).length = n := by simp [payload]

/-- Byte j of the payload is PAY[j]. -/
theorem payload_getElem (m : Memory) (n j : Nat) (h : j < (payload m n).length) :
    (payload m n)[j] = Memory.read m j := by simp [payload]

end Sys2Proof.Machine
end

