-- ==== Sys2Proof/Laws/PerInstr.lean ====
section
/-! SUPPORT. The family EncodesItsRow, one lemma per constructor of Instr: the encoder's word carries the match of the
instruction's row of spec/opcode_table.json under the row's mask, on the row's port. -/

namespace Sys2Proof.Laws.EncodesItsRow

open Sys2Proof

/-- The number a port word is, bit 0 its least significant. -/
def wordNat : PortWord → Nat
  | .mreq w => w.toNat
  | .dreq w => w.toNat
  | .rst w => w.toNat
  | .cmd w => w.toNat

/-- The length of a port word (R97, R98). -/
def wordBits : PortWord → Nat
  | .mreq _ => 52
  | .dreq _ => 99
  | .rst _ => 1
  | .cmd _ => 37

/-- The row's width, mask and match. -/
def row : Instr → Nat × Nat × Nat
  | .mNop => (52, 0x7, 0x0)
  | .mStart .. => (52, 0x7, 0x1)
  | .mStep => (52, 0x7, 0x2)
  | .mCancel => (52, 0x7, 0x3)
  | .mReserved _ => (52, 0x4, 0x4)
  | .dNop => (99, 0x7, 0x0)
  | .dStart .. => (99, 0x7, 0x1)
  | .dSample .. => (99, 0x7, 0x2)
  | .dStop => (99, 0x7, 0x3)
  | .dReserved _ => (99, 0x4, 0x4)
  | .reset => (1, 0x1, 0x1)
  | .cmdIdle _ => (37, 0x1F, 0x11)
  | .cmdLow _ => (37, 0x1F, 0x3)
  | .cmdHigh _ => (37, 0x1F, 0x5)
  | .cmdSyncGray _ => (37, 0x1F, 0x7)
  | .cmdTone600 _ => (37, 0x1F, 0xB)
  | .cmdTone1000 _ => (37, 0x1F, 0xD)
  | .cmdNone => (37, 0x1FFFFFFFFF, 0x0)

/-- The encoded word has its row's width, and its row's match under its row's mask. -/
def Statement (i : Instr) : Prop :=
  i.WellFormed → wordBits (encode i) = (row i).1 ∧ wordNat (encode i) &&& (row i).2.1 = (row i).2.2

/-- The low bits of a number built on a three-bit field are that field. -/
theorem low3 {n : Nat} (x : BitVec n) (op : BitVec 3) : (x ++ op).toNat &&& 0x7 = op.toNat := by
  rw [BitVec.toNat_append, show (0x7 : Nat) = 2 ^ 3 - 1 from rfl, Nat.and_two_pow_sub_one_eq_mod,
    ← Nat.shiftLeft_add_eq_or_of_lt op.isLt, Nat.shiftLeft_eq]
  have := op.isLt
  omega

/-- The low bits of a number built on a five-bit field are that field. -/
theorem low5 {n : Nat} (x : BitVec n) (op : BitVec 5) : (x ++ op).toNat &&& 0x1F = op.toNat := by
  rw [BitVec.toNat_append, show (0x1F : Nat) = 2 ^ 5 - 1 from rfl, Nat.and_two_pow_sub_one_eq_mod,
    ← Nat.shiftLeft_add_eq_or_of_lt op.isLt, Nat.shiftLeft_eq]
  have := op.isLt
  omega

/-- Bit 2 of a number built on a reserved operation code is set. -/
theorem bit2 {n : Nat} (x : BitVec n) (op : BitVec 3) (h : reservedOp op = true) : (x ++ op).toNat &&& 0x4 = 0x4 := by
  have h7 := low3 x op
  have hop : op.toNat &&& 0x4 = 0x4 := (by decide : ∀ o : BitVec 3, reservedOp o = true → o.toNat &&& 0x4 = 0x4) op h
  rw [← h7, Nat.and_assoc] at hop
  exact hop

theorem mNop : Statement .mNop := fun _ => ⟨rfl, by decide⟩

theorem mStart (mode : Mode) (n : BitVec 16) (t : BitVec 32) : Statement (.mStart mode n t) :=
  fun _ => ⟨rfl, low3 (t ++ n ++ mode.code) 1⟩

theorem mStep : Statement .mStep := fun _ => ⟨rfl, by decide⟩

theorem mCancel : Statement .mCancel := fun _ => ⟨rfl, by decide⟩

theorem mReserved (op : BitVec 3) : Statement (.mReserved op) :=
  fun h => ⟨rfl, bit2 ((0 : BitVec 32) ++ (0 : BitVec 16) ++ (0 : BitVec 1)) op h⟩

theorem dNop : Statement .dNop := fun _ => ⟨rfl, by decide⟩

theorem dStart (mode : Mode) (sens : BitVec 7) (t : BitVec 32) : Statement (.dStart mode sens t) :=
  fun _ => ⟨rfl, low3 ((0 : BitVec 56) ++ t ++ sens ++ mode.code) 1⟩

theorem dSample (ts : BitVec 64) (a b : BitVec 16) : Statement (.dSample ts a b) :=
  fun _ => ⟨rfl, low3 (ts ++ b ++ a) 2⟩

theorem dStop : Statement .dStop := fun _ => ⟨rfl, by decide⟩

theorem dReserved (op : BitVec 3) : Statement (.dReserved op) :=
  fun h => ⟨rfl, bit2 ((0 : BitVec 56) ++ (0 : BitVec 32) ++ (0 : BitVec 7) ++ (0 : BitVec 1)) op h⟩

theorem reset : Statement .reset := fun _ => ⟨rfl, by decide⟩

/-- The five low bits of a command word are its valid bit, state and last bit. -/
theorem of_cmd (valid : Bool) (st : ChanState) (last : Bool) (dur : BitVec 32) (v : BitVec 5)
    (h : BitVec.ofBool last ++ st.code ++ BitVec.ofBool valid = v) :
    (Cmd.word ⟨valid, st, last, dur⟩).toNat &&& 0x1F = v.toNat := by
  have assoc : Cmd.word ⟨valid, st, last, dur⟩ = dur ++ (BitVec.ofBool last ++ st.code ++ BitVec.ofBool valid) := by
    simp only [Cmd.word, BitVec.append_assoc, BitVec.cast_eq]
  rw [assoc, h]
  exact low5 dur v

theorem cmdIdle (dur : BitVec 32) : Statement (.cmdIdle dur) :=
  fun _ => ⟨rfl, of_cmd true .idle true dur 0x11 (by decide)⟩

theorem cmdLow (dur : BitVec 32) : Statement (.cmdLow dur) :=
  fun _ => ⟨rfl, of_cmd true .low false dur 0x3 (by decide)⟩

theorem cmdHigh (dur : BitVec 32) : Statement (.cmdHigh dur) :=
  fun _ => ⟨rfl, of_cmd true .high false dur 0x5 (by decide)⟩

theorem cmdSyncGray (dur : BitVec 32) : Statement (.cmdSyncGray dur) :=
  fun _ => ⟨rfl, of_cmd true .syncGray false dur 0x7 (by decide)⟩

theorem cmdTone600 (dur : BitVec 32) : Statement (.cmdTone600 dur) :=
  fun _ => ⟨rfl, of_cmd true .tone600 false dur 0xB (by decide)⟩

theorem cmdTone1000 (dur : BitVec 32) : Statement (.cmdTone1000 dur) :=
  fun _ => ⟨rfl, of_cmd true .tone1000 false dur 0xD (by decide)⟩

theorem cmdNone : Statement .cmdNone := fun _ => ⟨rfl, by decide⟩

end Sys2Proof.Laws.EncodesItsRow
end

