-- ==== Sys2Proof/Laws/Step.lean ====
section
/-! SUPPORT. What the meanings, the fetch and the step can do, once each: every operation answers a next state, written
out by port; every step is one of five. -/

namespace Sys2Proof.Machine

open Sys2Proof

@[simp] theorem exec_mNop (s : State) : exec .mNop s = .next (s.answerM (s.mod, Cmd.none)) := rfl

@[simp] theorem exec_mStart (mode : Mode) (n : BitVec 16) (t : BitVec 32) (s : State) :
    exec (.mStart mode n t) s = .next (s.answerM (s.mod.start s.straps.payloadMax.val s.pay mode n t)) := rfl

@[simp] theorem exec_mStep (s : State) : exec .mStep s = .next (s.answerM s.mod.step) := rfl

@[simp] theorem exec_mCancel (s : State) :
    exec .mCancel s = .next (s.answerM (s.mod.requestCancel, Cmd.none)) := rfl

@[simp] theorem exec_mReserved (op : BitVec 3) (s : State) :
    exec (.mReserved op) s = .next (s.answerM (s.mod, Cmd.none)) := rfl

@[simp] theorem exec_dNop (s : State) : exec .dNop s = .next (s.answerD (s.dem, .pending)) := rfl

@[simp] theorem exec_dStart (mode : Mode) (sens : BitVec 7) (t : BitVec 32) (s : State) :
    exec (.dStart mode sens t) s = .next (s.answerD (s.dem.start mode sens t, .pending)) := rfl

@[simp] theorem exec_dSample (ts : BitVec 64) (a b : BitVec 16) (s : State) :
    exec (.dSample ts a b) s = .next (s.answerD (s.dem.sample s.straps.tieFreq ts a b)) := rfl

@[simp] theorem exec_dStop (s : State) : exec .dStop s = .next (s.answerD (s.dem.tearDown, .pending)) := rfl

@[simp] theorem exec_dReserved (op : BitVec 3) (s : State) :
    exec (.dReserved op) s = .next (s.answerD (s.dem, .pending)) := rfl

/-- The MODULATOR's answer to an M-port operation, which no other state decides but PAY and PAYLOAD_MAX (R20). -/
def Modulator.answer (straps : Config.Straps) (pay : Memory) (m : Modulator) : Instr → Modulator × Cmd
  | .mStart mode n t => m.start straps.payloadMax.val pay mode n t
  | .mStep => m.step
  | .mCancel => (m.requestCancel, Cmd.none)
  | _ => (m, Cmd.none)

/-- The DEMODULATOR's answer to a D-port operation, which no other state decides but TIE_FREQ (R20). -/
def Demod.answer (straps : Config.Straps) (d : Demod) : Instr → Demod × Result
  | .dStart mode sens t => (d.start mode sens t, .pending)
  | .dSample ts a b => d.sample straps.tieFreq ts a b
  | .dStop => (d.tearDown, .pending)
  | _ => (d, .pending)

/-- An M-port operation writes the MODULATOR and the M port's response, and nothing else. -/
theorem exec_onM (i : Instr) (s : State) (h : i.onM = true) :
    exec i s = .next (s.answerM (s.mod.answer s.straps s.pay i)) := by
  cases i <;> first | rfl | cases h

/-- A frame command is one the M port answers with (R132, R133). -/
theorem frameCmd_answerable (mode : Mode) (f : Bits) (t : BitVec 32) (k : Nat) : (frameCmd mode f t k).answerable := by
  refine .inr ⟨(frameCmd_valid ..).1, (frameCmd_valid ..).2, ?_⟩
  unfold frameCmd
  cases mode <;> simp only <;> split_ifs <;> simp [Cmd.frame]

/-- The commands of the M port: none, the closing one, or a frame command. -/
theorem Modulator.answer_cmd (straps : Config.Straps) (pay : Memory) (m : Modulator) (i : Instr) :
    (m.answer straps pay i).2 = Cmd.none ∨ (m.answer straps pay i).2.answerable := by
  have start (pm : Nat) (mode : Mode) (n : BitVec 16) (t : BitVec 32) :
      (m.start pm pay mode n t).2 = Cmd.none ∨ (m.start pm pay mode n t).2.answerable := by
    rcases m.start_cases pm pay mode n t with ⟨_, e⟩ | ⟨_, e⟩ <;> rw [e] <;>
      rcases m.tearDown_cases with ⟨_, e⟩ | ⟨_, e⟩ <;> rw [e] <;> first | exact .inl rfl | exact .inr (.inl rfl)
  have step : m.step.2 = Cmd.none ∨ m.step.2.answerable := by
    rcases m.step_cases with ⟨_, e⟩ | ⟨_, _, e⟩ | ⟨_, _, _, e⟩ | ⟨_, _, _, e⟩ <;> rw [e]
    · exact .inl rfl
    · exact .inr (.inl rfl)
    · exact .inr (.inl rfl)
    · exact .inr (frameCmd_answerable ..)
  cases i <;> first | exact .inl rfl | exact start _ _ _ _ | exact step

/-- A D-port operation writes the DEMODULATOR and the D port's response, and nothing else. -/
theorem exec_onD (i : Instr) (s : State) (h : i.onD = true) :
    exec i s = .next (s.answerD (s.dem.answer s.straps i)) := by
  cases i <;> first | rfl | cases h

/-- A command word writes what the actuator holds, and nothing else. -/
theorem exec_isCmd (i : Instr) (s : State) (h : i.isCmd = true) :
    ∃ act, exec i s = .next { s with act := act } := by
  cases i <;> first | exact ⟨_, rfl⟩ | cases h

/-- The words the driver applies (log 19). -/
theorem State.mayApply_iff (s : State) (w : BitVec 37) :
    s.mayApply w = true ↔ w = Cmd.none.word ∨ w = Cmd.closing.word ∨ ∃ c, s.hand = some c ∧ c.word = w := by
  simp only [State.mayApply, Bool.or_eq_true, decide_eq_true_eq, Option.map_eq_some_iff, or_assoc]

/-- Every operation is on one port, or is RESET, or is a command word. -/
theorem port_cases (i : Instr) : i.onM = true ∨ i.onD = true ∨ i = .reset ∨ i.isCmd = true := by
  cases i <;> simp [Instr.onM, Instr.onD, Instr.isCmd]

/-- What a fetch can give: the reset input first, then the next event. -/
theorem fetch_cases (s : State) :
    (s.rst = 1 ∧ fetch s = .word (.rst s.rst) { s with rst := 0 }) ∨
    (s.rst ≠ 1 ∧ s.inbox = [] ∧ fetch s = .nothing) ∨
    (∃ w rest, s.rst ≠ 1 ∧ s.inbox = .mreq w :: rest ∧ fetch s = .word (.mreq w) { s with inbox := rest }) ∨
    (∃ w rest, s.rst ≠ 1 ∧ s.inbox = .dreq w :: rest ∧ fetch s = .word (.dreq w) { s with inbox := rest }) ∨
    (∃ w rest, s.rst ≠ 1 ∧ s.inbox = .apply w :: rest ∧ s.mayApply w = true ∧
      fetch s = .word (.cmd w) { s with inbox := rest }) ∨
    (∃ w rest, s.rst ≠ 1 ∧ s.inbox = .apply w :: rest ∧ s.mayApply w = false ∧ fetch s = .foreign) ∨
    (∃ rest, s.rst ≠ 1 ∧ s.inbox = .assertRst :: rest ∧ fetch s = .outside { s with inbox := rest, rst := 1 }) ∨
    (∃ i v rest, s.rst ≠ 1 ∧ s.inbox = .paySet i v :: rest ∧
      fetch s = .outside { s with inbox := rest, pay := Memory.write s.pay i.toNat v }) := by
  by_cases h : s.rst = 1
  · exact .inl ⟨h, by simp [fetch, h]⟩
  · refine .inr ?_
    unfold fetch
    rw [if_neg h]
    match hi : s.inbox with
    | [] => exact .inl ⟨h, rfl, rfl⟩
    | .mreq w :: rest => exact .inr (.inl ⟨w, rest, h, rfl, rfl⟩)
    | .dreq w :: rest => exact .inr (.inr (.inl ⟨w, rest, h, rfl, rfl⟩))
    | .apply w :: rest =>
      cases ha : s.mayApply w
      · exact .inr (.inr (.inr (.inr (.inl ⟨w, rest, h, rfl, ha, by simp [ha]⟩))))
      · exact .inr (.inr (.inr (.inl ⟨w, rest, h, rfl, ha, by simp [ha]⟩)))
    | .assertRst :: rest => exact .inr (.inr (.inr (.inr (.inr (.inl ⟨rest, h, rfl, rfl⟩)))))
    | .paySet i v :: rest => exact .inr (.inr (.inr (.inr (.inr (.inr ⟨i, v, rest, h, rfl, rfl⟩)))))

/-- What a step that answers a next state can do: hold the state, let the reset input be asserted, let the byte source
write PAY, or perform one operation on the state less the event taken, whose agents, PAY and parameters are those of the
state. -/
theorem step_next_cases (s s' : State) (h : step s = .next s') :
    s' = s ∨
    (∃ rest, s' = { s with inbox := rest, rst := 1 }) ∨
    (∃ i v rest, s' = { s with inbox := rest, pay := Memory.write s.pay i v }) ∨
    (∃ i r rest, exec i { s with rst := r, inbox := rest } = .next s') := by
  have run (p : PortWord) (t : State) (e : fetch s = .word p t) : ∃ i, exec i t = .next s' := by
    simp only [step, e] at h
    cases hd : decode p with
    | ok i => exact ⟨i, by simpa [hd] using h⟩
    | error e => simp [hd] at h
  rcases fetch_cases s with ⟨-, e⟩ | ⟨-, -, e⟩ | ⟨w, rest, -, -, e⟩ | ⟨w, rest, -, -, e⟩ | ⟨w, rest, -, -, -, e⟩ |
    ⟨w, rest, -, -, -, e⟩ | ⟨rest, -, -, e⟩ | ⟨i, v, rest, -, -, e⟩
  · obtain ⟨i, hi⟩ := run _ _ e; exact .inr (.inr (.inr ⟨i, 0, s.inbox, hi⟩))
  · simp only [step, e] at h; cases h; exact .inl rfl
  · obtain ⟨i, hi⟩ := run _ _ e; exact .inr (.inr (.inr ⟨i, s.rst, rest, hi⟩))
  · obtain ⟨i, hi⟩ := run _ _ e; exact .inr (.inr (.inr ⟨i, s.rst, rest, hi⟩))
  · obtain ⟨i, hi⟩ := run _ _ e; exact .inr (.inr (.inr ⟨i, s.rst, rest, hi⟩))
  · simp only [step, e] at h; cases h
  · simp only [step, e] at h; cases h; exact .inr (.inl ⟨rest, rfl⟩)
  · simp only [step, e] at h; cases h; exact .inr (.inr (.inl ⟨i.toNat, v, rest, rfl⟩))

end Sys2Proof.Machine
end

