-- ==== Sys2Proof/Tests/Slice0.lean ====
section
/-! SUPPORT. The tests: the checks of WellFormed, the words of spec/95_test_vectors.md section 7 and of 30_encoding.md's
tables, one step of every operation on the values of the spec's vectors (their names stand in the comments), and for
every statement with hypotheses a state and operands that meet them. -/

namespace Sys2Proof.Tests

open Sys2Proof Sys2Proof.Machine

/-! WellFormed -/

theorem test_wf_refuses_mReserved_of_a_used_code : ¬ (Instr.mReserved 1).WellFormed := by decide

theorem test_wf_refuses_dReserved_of_a_used_code : ¬ (Instr.dReserved 3).WellFormed := by decide

theorem test_wf_accepts_reserved_codes : (Instr.mReserved 4).WellFormed ∧ (Instr.dReserved 7).WellFormed := by decide

/-! Decoding: words written out from R97 to R100, R260, and those of programs P1 to P5 -/

theorem test_decode_mNop : decode (.mreq 0) = .ok .mNop := by decide

/-- P1, no. 1. -/
theorem test_decode_mStart : decode (.mreq 0x0000006400021#52) = .ok (.mStart .level 2 100) := by decide

/-- P1, "Tone-mode words for comparison". -/
theorem test_decode_mStart_tone : decode (.mreq 0x0000006400019#52) = .ok (.mStart .tone 1 100) := by decide

theorem test_decode_mStep : decode (.mreq 2) = .ok .mStep := by decide

theorem test_decode_mCancel : decode (.mreq 3) = .ok .mCancel := by decide

/-- M11: op = 5, and R108: the ignored fields may hold any value. -/
theorem test_decode_mReserved : decode (.mreq 0xFFFFFFFFFFFFD#52) = .ok (.mReserved 5) := by decide

theorem test_decode_dNop : decode (.dreq 0) = .ok .dNop := by decide

/-- P2. -/
theorem test_decode_dStart : decode (.dreq 0x0000000000000000000032329#99) = .ok (.dStart .tone 50 100) := by decide

/-- P5, no. 6. -/
theorem test_decode_dStart_level : decode (.dreq 0x00000000000000000000FAB21#99) = .ok (.dStart .level 50 501) := by
  decide

/-- P2, sample 314. -/
theorem test_decode_dSample : decode (.dreq 0x0000000000000816640000002#99) = .ok (.dSample 4140 0 51200) := by decide

/-- P3, no. 8. -/
theorem test_decode_dSample_level : decode (.dreq 0x000000000000028F00003FC0A#99) = .ok (.dSample 1310 32641 0) := by
  decide

theorem test_decode_dStop : decode (.dreq 3) = .ok .dStop := by decide

theorem test_decode_dReserved : decode (.dreq 7) = .ok (.dReserved 7) := by decide

theorem test_decode_reset : decode (.rst 1) = .ok .reset := by decide

theorem test_decode_reset_low : decode (.rst 0) = .error .rstLow := by decide

/-- P1, no. 6. -/
theorem test_decode_cmdIdle : decode (.cmd 0x0000000011#37) = .ok (.cmdIdle 0) := by decide

/-- P1, no. 4. -/
theorem test_decode_cmdLow : decode (.cmd 0x0000000C83#37) = .ok (.cmdLow 100) := by decide

/-- P1, no. 2. -/
theorem test_decode_cmdHigh : decode (.cmd 0x0000000C85#37) = .ok (.cmdHigh 100) := by decide

/-- P1, no. 3. -/
theorem test_decode_cmdSyncGray : decode (.cmd 0x00000003C7#37) = .ok (.cmdSyncGray 30) := by decide

theorem test_decode_cmdTone600 : decode (.cmd 0x0000000C8B#37) = .ok (.cmdTone600 100) := by decide

theorem test_decode_cmdTone1000 : decode (.cmd 0x0000000C8D#37) = .ok (.cmdTone1000 100) := by decide

theorem test_decode_cmdNone : decode (.cmd 0) = .ok .cmdNone := by decide

/-- R97: with `cmd_valid = 0` the other fields are 0. -/
theorem test_decode_cmd_without_valid : decode (.cmd 0x0000000C84#37) = .error .cmdFieldsWithoutValid := by decide

/-- R96: SILENCE is never produced. -/
theorem test_decode_cmd_silence : decode (.cmd 0x0000000C89#37) = .error .cmdNeverProduced := by decide

/-- R97: the frame commands do not carry `cmd_last`. -/
theorem test_decode_cmd_last_high : decode (.cmd 0x0000000C95#37) = .error .cmdNeverProduced := by decide

theorem test_table_word_of_each_port :
    decodeTableWord 56 0x0000006400021 = some (.mStart .level 2 100) ∧
    decodeTableWord 104 0x0000000000000816640000002 = some (.dSample 4140 0 51200) ∧
    decodeTableWord 8 1 = some .reset ∧ decodeTableWord 40 0x0000000C85 = some (.cmdHigh 100) := by decide

/-! Small states -/

/-- The state after a performed D_START. -/
def armed (mode : Mode) : State := { State.reset with dem := Demod.reset.arm mode 50 100 }

/-- P3, the registers before step 11. -/
def levelDemod : Demod :=
  { Demod.reset.arm .level 50 100 with
    fsm := .accumulating, level := some .low, tstart := 1340, count := 4, buf := [true, false, true, false]
    hist := [⟨.high, 100, none⟩, ⟨.low, 100, none⟩, ⟨.high, 30, none⟩, ⟨.low, 80, none⟩, ⟨.high, 30, none⟩] }

def levelState : State := { State.reset with dem := levelDemod }

/-- A Tone-mode session during a sound interval of frequency `f` since 9100 ms, with the bits `buf`. -/
def toneDemod (f : Band) (buf : Bits) : Demod :=
  { Demod.reset.arm .tone 50 100 with
    fsm := .accumulating, level := some .high, freq := some f, tstart := 9100, buf := buf
    count := BitVec.ofNat 64 buf.length, hist := [⟨.low, 60, some .f600⟩] }

def toneState (f : Band) (buf : Bits) : State := { State.reset with dem := toneDemod f buf }

def zeros (n : Nat) : Bits := List.replicate n false

/-- T6 and P2: the 50 bits before the last bit of the frame of "OK". -/
def okBits : Bits := (zeros 19 ++ frameOf [0x4F, 0x4B]).take 50

/-- V1: the 110 bits before the last bit of "H". -/
def previewBits : Bits := (zeros 95 ++ frameOf [0x48]).take 110

/-- P2 at its end. -/
def completeState : State :=
  { toneState .f1000 (zeros 19 ++ frameOf [0x4F, 0x4B]) with
    dem := { toneDemod .f1000 (zeros 19 ++ frameOf [0x4F, 0x4B]) with fsm := .complete, final := [0x4F, 0x4B] } }

def stoppedState : State := { State.reset with dem := (Demod.reset.arm .tone 50 100).tearDown }

/-- A running sequence at command `k`: the payload "Hi" of P1. -/
def running (mode : Mode) (k : BitVec 16) (cancel : Bool) : State :=
  { State.reset with
    mod := { Modulator.reset.load mode 100 [0x48, 0x69] with k := k, cancel := cancel }, pay := [(0, 0x48), (1, 0x69)] }

/-- The operation answers a next state that passes the check. -/
def gives (i : Instr) (s : State) (p : State → Bool) : Bool :=
  match exec i s with
  | .next t => p t
  | .fault _ => false
  | .refused _ => false

/-- The step answers a next state that passes the check. -/
def stepGives (s : State) (p : State → Bool) : Bool :=
  match step s with
  | .next t => p t
  | .fault _ => false
  | .refused _ => false

/-! One step of each operation -/

/-- M11. -/
theorem test_mNop : gives .mNop (running .level 7 false) (fun t =>
    t.mRsp == some ⟨Cmd.none, .run, false⟩ && t.mod == (running .level 7 false).mod) = true := by decide

/-- M11: a reserved code is a NOP. -/
theorem test_mReserved : gives (.mReserved 5) (running .level 7 true) (fun t =>
    t.mRsp == some ⟨Cmd.none, .run, false⟩ && t.mod.cancel) = true := by decide

/-- M7: the old sequence is torn down, the new one loaded. -/
theorem test_mStart_while_running : gives (.mStart .tone 1 100) (running .level 10 true) (fun t =>
    t.mRsp == some ⟨Cmd.closing, .run, false⟩ && t.mod.len == 24 && t.mod.k == 0 && !t.mod.cancel) = true := by decide

/-- M8: a refused start still ends the old sequence and writes nothing else. -/
theorem test_mStart_refused_while_running : gives (.mStart .tone 1 5) (running .level 10 false) (fun t =>
    t.mRsp == some ⟨Cmd.closing, .cancelled, true⟩ && t.mod.mode == .level && t.mod.k == 10) = true := by decide

/-- M5, from m_k = 7 with a cancel pending. -/
theorem test_mStep_cancelled : gives .mStep (running .level 7 true) (fun t =>
    t.mRsp == some ⟨Cmd.closing, .cancelled, false⟩ && !t.mod.cancel && t.mod.k == 7) = true := by decide

/-- P1, no. 3. -/
theorem test_mStep_sync : gives .mStep (running .level 1 false) (fun t =>
    t.mRsp == some ⟨⟨true, .syncGray, false, 30⟩, .run, false⟩ && t.mod.k == 2) = true := by decide

/-- P1, no. 5. -/
theorem test_mCancel : gives .mCancel (running .level 3 false) (fun t =>
    t.mRsp == some ⟨Cmd.none, .run, false⟩ && t.mod.cancel && t.mod.k == 3) = true := by decide

/-- M9. -/
theorem test_mCancel_idle : gives .mCancel State.reset (fun t => !t.mod.cancel) = true := by decide

theorem test_dNop : gives .dNop levelState (fun t =>
    t.dem == levelDemod && t.dRsp.map DRsp.liveBits == some 0b1010 && t.dRsp.map DRsp.liveLen == some 4) = true := by
  decide

theorem test_dReserved : gives (.dReserved 4) completeState (fun t =>
    t.dem == completeState.dem && t.dRsp.map DRsp.result == some .pending) = true := by decide

/-- P5, no. 6: refused, the old session ended, the configuration kept. -/
theorem test_dStart_refused : gives (.dStart .level 50 501) levelState (fun t =>
    t.dem.fsm == .stopped && t.dem.cfgErr && t.dem.dur == 100 && t.dem.hist == []) = true := by decide

/-- P5, no. 3. -/
theorem test_dStart : gives (.dStart .level 90 500) stoppedState (fun t =>
    t.dem.fsm == .armed && !t.dem.cfgErr && t.dem.sens == 90 && t.dem.dur == 500) = true := by decide

/-- P2, sample 820. -/
theorem test_dSample_completes : gives (.dSample 9200 0 0) (toneState .f1000 okBits) (fun t =>
    t.dRsp.map DRsp.result == some (.complete [0x4F, 0x4B]) && t.dem.count == 51 && t.dem.fsm == .complete) = true := by
  decide

/-- From the state before P3 no. 11, by R175 and R177: 30 ms after LOW began, the pair (HIGH, LOW) gives a 1. -/
theorem test_dSample_level_bit : gives (.dSample 1370 51200 0) levelState (fun t =>
    t.dem.buf == [true, false, true, false, true] && t.dem.hist.getLast? == some ⟨.low, 30, none⟩) = true := by decide

/-- P3, no. 11. -/
theorem test_dStop : gives .dStop levelState (fun t =>
    t.dem.fsm == .stopped && t.dem.buf == [] && t.dem.level == none && t.dem.sens == 50) = true := by decide

/-- P5, no. 9: RESET clears what a refused start left and what a session holds. -/
theorem test_reset : gives .reset { levelState with dem := { levelDemod with cfgErr := true } } (fun t =>
    t.dem.fsm == .idle && !t.dem.cfgErr && t.dem.buf == [] && t.dem.count == 0) = true := by decide

theorem test_cmdIdle : gives (.cmdIdle 0) State.reset (fun t => t.act == some ⟨.idle, 0⟩) = true := by decide

theorem test_cmdLow : gives (.cmdLow 100) State.reset (fun t => t.act == some ⟨.low, 100⟩) = true := by decide

theorem test_cmdHigh : gives (.cmdHigh 100) State.reset (fun t => t.act == some ⟨.high, 100⟩) = true := by decide

theorem test_cmdSyncGray : gives (.cmdSyncGray 30) State.reset (fun t => t.act == some ⟨.syncGray, 30⟩) = true := by
  decide

theorem test_cmdTone600 : gives (.cmdTone600 100) State.reset (fun t => t.act == some ⟨.tone600, 100⟩) = true := by
  decide

theorem test_cmdTone1000 : gives (.cmdTone1000 100) State.reset (fun t => t.act == some ⟨.tone1000, 100⟩) = true := by
  decide

theorem test_cmdNone : gives .cmdNone { State.reset with act := some ⟨.high, 100⟩ } (fun t =>
    t.act == some ⟨.high, 100⟩) = true := by decide

/-! The codec, the frame decoder, the step -/

/-- K6. -/
theorem test_frame_hi : frameOf [0x48, 0x69] = [true, false, true, false, true, false, true, false,
    false, true, false, false, true, false, false, false, false, true, true, false, true, false, false, true,
    false, true, false, true, false, true, false, true] := by decide

/-- K12. -/
theorem test_decodeBytes_drops : decodeBytes ([0x80, 0x42, 0x00, 0x7F].flatMap bits8) = [0x42] := by decide

/-- F1 and F3. -/
theorem test_frameSearch : frameSearch (frameOf [0x48, 0x69]) = none ∧
    frameSearch (frameOf [0x4F, 0x4B]) = some [0x4F, 0x4B] := by decide

/-- F1: the end marker's bits are shown as "U". -/
theorem test_preview : previewText (frameOf [0x48, 0x69]) = some [0x48, 0x69, 0x55] := by decide

/-- B1, B2, B9. -/
theorem test_binarize : binarize .f600 .level 50 32640 0 = (.low, none) ∧
    binarize .f600 .level 50 32641 0 = (.high, none) ∧ binarize .f600 .tone 50 51200 51200 = (.high, some .f600) := by
  decide

/-- K17. -/
theorem test_syncDur : syncDur 55 = 16 ∧ syncDur 333 = 99 := by decide

/-- The word of a table row runs as the first operation after reset. -/
theorem test_withFetchWord : stepGives (State.reset.withFetchWord 104 0x0000000000000000000032329) (fun t =>
    t.dem.fsm == .armed && t.inbox == []) = true ∧
    stepGives (State.reset.withFetchWord 40 0x0000000C85) (fun t => t.act == some ⟨.high, 100⟩) = true ∧
    stepGives (State.reset.withFetchWord 8 1) (fun t => t.rst == 0 && t.free == 1) = true := by decide

/-- A payload byte presented after M_START is not in the running frame (R73). -/
theorem test_payload_read_at_start :
    stepGives { running .tone 0 false with inbox := [.paySet 0 0x42] } (fun t =>
      t.mod.frame == frameOf [0x48, 0x69] && t.pay == [(0, 0x42), (1, 0x69)]) = true := by decide

/-! What meets the hypotheses of the statements, by the statement's name; with several clauses, one for each at the
boundary values -/

theorem test_meets_DecodeEncodeRoundTrip : (Instr.mReserved 4).WellFormed ∧ (Instr.dSample 0 0 0).WellFormed := by decide

theorem test_meets_DecodedOperationsWellFormed : decode (.dreq 4) = .ok (.dReserved 4) := by decide

theorem test_meets_CommandWordsDecodeUniquely : decode (.cmd 0x00000003C7#37) = .ok (.cmdSyncGray 30) := by decide

theorem test_meets_OperationCodesAndFields :
    (0#52).extractLsb' 0 3 = 0 ∧ (1#52).extractLsb' 0 3 = 1 ∧ (2#52).extractLsb' 0 3 = 2 ∧ (3#52).extractLsb' 0 3 = 3 ∧
    4 ≤ ((4#52).extractLsb' 0 3).toNat ∧ 4 ≤ ((7#52).extractLsb' 0 3).toNat ∧
    (0#99).extractLsb' 0 3 = 0 ∧ (1#99).extractLsb' 0 3 = 1 ∧ (2#99).extractLsb' 0 3 = 2 ∧ (3#99).extractLsb' 0 3 = 3 ∧
    4 ≤ ((4#99).extractLsb' 0 3).toNat ∧ 4 ≤ ((7#99).extractLsb' 0 3).toNat := by decide

theorem test_meets_CommandWordFields : Instr.onM .mStep = true ∧
    gives .mStep State.reset (fun t => t.mRsp.map (fun r => r.cmd.valid) == some false) = true ∧
    gives .mStep (running .tone 32 false) (fun t => t.mRsp.map (fun r => r.cmd.last) == some true) = true := by decide

theorem test_meets_MPortAnswersTableWords : Instr.onM .mStep = true ∧
    gives .mStep (running .level 0 false) (fun t => t.mRsp.isSome) = true := by decide

theorem test_meets_FrameFieldPositions : 0 < [0x48#8, 0x69#8].length ∧ 1 < [0x48#8, 0x69#8].length := by decide

theorem test_meets_StepPerformsDecodedOperation : State.reset.rst ≠ 1 ∧ (Instr.mStep).WellFormed ∧
    decode (.mreq 2) = .ok .mStep ∧ ({ State.reset with inbox := [.mreq 2] } : State).inbox = .mreq 2 :: [] ∧
    decode (.dreq 3) = .ok .dStop ∧ ({ State.reset with inbox := [.dreq 3] } : State).inbox = .dreq 3 :: [] ∧
    decode (.cmd 0) = .ok .cmdNone ∧ ({ State.reset with inbox := [.apply 0] } : State).inbox = .apply 0 :: [] ∧
    ({ State.reset with inbox := [.apply 0] } : State).mayApply 0 = true := by decide

theorem test_meets_IdleBlockHoldsState : levelState.rst ≠ 1 ∧ levelState.inbox = [] := by decide

theorem test_meets_ByteSourceWritesOneByte :
    let s : State := { running .level 0 false with inbox := [.paySet 1 0x42] }
    s.rst ≠ 1 ∧ s.inbox = .paySet 1 0x42 :: [] ∧ Memory.wf s.pay = true := by decide

/-- A word no response can be, and a command of the table that was not answered; the first one in the driver's hand. -/
theorem test_meets_OnlyForeignCommandWordsRefused :
    step { State.reset with inbox := [.apply 1] } = .refused .notAnswered ∧
    step { State.reset with inbox := [.apply 0x0000000C85#37] } = .refused .notAnswered ∧
    step { State.reset with inbox := [.apply 1], hand := some ⟨true, .idle, false, 0⟩ } =
      .refused (.notAnOperation .cmdNeverProduced) := ⟨by rfl, by rfl, by rfl⟩

/-- Four words the driver may apply at command 1 of P1's sequence, one it may not, and M_STEP's answer in its hand. -/
theorem test_meets_DriverAppliesLastAnsweredCommand :
    let s : State := { running .level 1 false with hand := some ⟨true, .high, false, 100⟩, inbox := [.apply 0x00000003C7#37] }
    s.mayApply 0 = true ∧ s.mayApply 0x11#37 = true ∧ s.mayApply 0x0000000C85#37 = true ∧
    s.mayApply 0x00000003C7#37 = false ∧ s.rst ≠ 1 ∧ s.inbox = .apply 0x00000003C7#37 :: [] ∧
    (∀ i ∈ [Instr.mStep], i.onM = true) ∧
    (match execAll [Instr.mStep] s with
      | .next t => t.hand == some ⟨true, .syncGray, false, 30⟩ && t.mayApply 0x00000003C7#37
      | _ => false) = true := by decide

/-- The refusing condition of MStartResult. -/
abbrev refusedM (mode : Mode) (n : BitVec 16) (t : BitVec 32) : Prop :=
  n.toNat = 0 ∨ State.reset.straps.payloadMax.val < n.toNat ∨ t.toNat = 0 ∨
    t.toNat < (if mode = .level then 50 else 100) ∨ (if mode = .level then 500 else 1000) < t.toNat

/-- M4. -/
theorem test_meets_MStartResult :
    refusedM .level 0 100 ∧ refusedM .level 249 100 ∧ ¬ refusedM .level 248 100 ∧ refusedM .level 1 0 ∧
    refusedM .level 1 49 ∧ ¬ refusedM .level 1 50 ∧ ¬ refusedM .level 1 500 ∧ refusedM .level 1 501 ∧
    refusedM .tone 1 99 ∧ ¬ refusedM .tone 1 100 ∧ ¬ refusedM .tone 1 1000 ∧ refusedM .tone 1 1001 := by decide

theorem test_meets_MStepResult :
    State.reset.mod.fsm ≠ .run ∧
    (running .level 0 true).mod.fsm = .run ∧ (running .level 64 true).mod.cancel = true ∧
    (running .level 64 false).mod.cancel = false ∧ (running .level 64 false).mod.k.toNat = 2 * 32 ∧
    (running .tone 32 false).mod.k.toNat = (running .tone 32 false).mod.len.toNat ∧
    (running .level 63 false).mod.k.toNat ≠ 2 * 32 := by decide

theorem test_meets_MCancelResult : (running .tone 0 false).mod.fsm = .run ∧ State.reset.mod.fsm ≠ .run := by decide

theorem test_meets_LevelFrameCommand : 62 / 2 < (frameOf [0x48, 0x69]).length ∧ 62 % 2 = 0 ∧ 63 % 2 = 1 := by decide

theorem test_meets_ToneFrameCommand : 31 < (frameOf [0x48, 0x69]).length := by decide

theorem test_meets_BuildFrameReadsPayload :
    badModStart State.reset.straps.payloadMax.val .tone 248 1000 = false ∧
    gives (.mStart .tone 2 1000) (running .level 0 false) (fun t => t.mod.len == 32) = true := by decide

theorem test_meets_ModulateEmitsWholeFrame :
    badModStart State.reset.straps.payloadMax.val .level 1 50 = false ∧
    gives (.mStart .level 1 50) (running .level 0 false) (fun t => t.mod.fsm == .run) = true := by decide

theorem test_meets_ActuatorLeftIdle : (∀ i ∈ [Instr.mCancel, Instr.mStep], i.onM = true) ∧
    (match execAll [Instr.mCancel, Instr.mStep] (running .level 7 false) with
      | .next t => t.mod.fsm != .run
      | _ => false) = true ∧
    gives .mStep (running .level 7 false) (fun t => t.mRsp.map (fun r => r.cmd.valid && !r.cmd.last) == some true) =
      true := by decide

/-- The refusing condition of DStartResult. -/
abbrev refusedD (mode : Mode) (sens : BitVec 7) (t : BitVec 32) : Prop :=
  sens.toNat < 10 ∨ 90 < sens.toNat ∨ t.toNat < (if mode = .level then 50 else 100) ∨
    (if mode = .level then 500 else 1000) < t.toNat

theorem test_meets_DStartResult :
    refusedD .level 9 50 ∧ ¬ refusedD .level 10 50 ∧ ¬ refusedD .level 90 500 ∧ refusedD .level 91 500 ∧
    refusedD .level 10 49 ∧ refusedD .level 10 501 ∧ refusedD .tone 10 99 ∧ ¬ refusedD .tone 10 100 ∧
    ¬ refusedD .tone 90 1000 ∧ refusedD .tone 90 1001 ∧ levelState.dem.fsm = .accumulating ∧
    (armed .tone).dem.fsm = .armed ∧ completeState.dem.fsm = .complete ∧ State.reset.dem.fsm = .idle ∧
    stoppedState.dem.fsm = .stopped := by decide

theorem test_meets_DStopResult : (armed .level).dem.fsm = .armed ∧ levelState.dem.fsm = .accumulating ∧
    completeState.dem.fsm = .complete ∧ stoppedState.dem.fsm = .stopped := by decide

theorem test_meets_SessionTransitions :
    gives .reset levelState (fun t => t.dem.fsm == .idle) = true ∧ Instr.onM .mNop = true ∧ Instr.isCmd .cmdNone = true ∧
    State.reset.dem.fsm = .idle ∧ stoppedState.dem.fsm = .stopped ∧ completeState.dem.fsm = .complete ∧
    (armed .level).dem.fsm = .armed ∧ levelState.dem.fsm = .accumulating := by decide

/-- An ARMED session that has been primed accepts at the debounce time and not before it. -/
theorem test_meets_SessionTransitions_accepts :
    let d : Demod := (Demod.reset.arm .level 50 100).begin .high none 1000
    d.fsm = .armed ∧ d.accepts .f600 1030 2560 0 ∧ ¬ d.accepts .f600 1029 2560 0 := by
  refine ⟨rfl, ⟨.high, rfl, by decide, by decide⟩, ?_⟩
  rintro ⟨l, -, -, h⟩
  exact absurd h (by decide)

theorem test_meets_SampleOutsideDecoding : State.reset.dem.fsm = .idle ∧ stoppedState.dem.fsm = .stopped ∧
    completeState.dem.fsm = .complete := by decide

theorem test_meets_FirstSamplePrimes : (armed .tone).dem.fsm = .armed ∧ (armed .tone).dem.level = none := by decide

/-- T1d to T4d: one millisecond early, at the debounce time, an earlier timestamp, and no candidate. -/
theorem test_meets_CandidateAndDebounceTest :
    levelState.dem.fsm = .accumulating ∧ levelState.dem.level = some .low ∧
    (binarize .f600 .level 50 51200 0).1 ≠ .low ∧ (1369 : BitVec 64).toNat < levelState.dem.tstart.toNat + 30 ∧
    ¬ (1370 : BitVec 64).toNat < levelState.dem.tstart.toNat + 30 ∧ (900 : BitVec 64).toNat < levelState.dem.tstart.toNat ∧
    (binarize .f600 .level 50 0 0).1 = .low := by decide

theorem test_meets_AcceptedWithoutBit :
    let d : Demod := (Demod.reset.arm .level 50 100).begin .high none 1000
    d.fsm = .armed ∧ d.level = some .high ∧ (binarize .f600 d.mode d.sens 2560 0).1 ≠ .high ∧
    d.tstart.toNat + 30 ≤ (1030 : BitVec 64).toNat ∧ extractBit d.mode (histPush d.hist ⟨.high, 30, d.freq⟩) = none := by
  decide

/-- The premises in common: a sound interval that ends 100 ms after it began. -/
theorem test_meets_AcceptedWithBit :
    let d := toneDemod .f1000 okBits
    d.fsm = .accumulating ∧ d.level = some .high ∧ (binarize .f600 d.mode d.sens 0 0).1 ≠ .high ∧
    d.tstart.toNat + 50 ≤ (9200 : BitVec 64).toNat ∧
    extractBit d.mode (histPush d.hist ⟨.high, 9200 - d.tstart, d.freq⟩) = some true := by decide

/-- A found frame at 51 bits; nothing found and no more than 50 bits (T5); a preview that differs (V1); one that does
not differ. -/
theorem test_meets_AcceptedWithBit_clauses :
    (50 < (bufAppend okBits true).length ∧ frameSearch (bufAppend okBits true) = some [0x4F, 0x4B]) ∧
    (bufAppend (okBits.drop 1) true).length = 50 ∧
    (frameSearch (bufAppend previewBits false) = none ∧ 100 < (bufAppend previewBits false).length ∧
      previewText (bufAppend previewBits false) = some [0x48] ∧ [0x48] ≠ (toneDemod .f600 previewBits).preview) ∧
    (frameSearch (bufAppend (zeros 100) false) = none ∧ previewText (bufAppend (zeros 100) false) = none) := by
  set_option maxRecDepth 4000 in decide

theorem test_meets_LevelBitIsDirection : ([] : List HistRec).length < 2 ∧ [HistRec.mk .high 100 none].length < 2 ∧
    (HistRec.mk .low 100 none).level = .low ∧ (HistRec.mk .high 30 none).level = .high := by decide

theorem test_meets_BufAppendKeepsNewest : (zeros 1999).length < 2000 ∧ 2000 ≤ (zeros 2000).length ∧
    (zeros 2000).length ≤ 2000 := by simp only [zeros, List.length_replicate]; omega

theorem test_meets_HistPushKeepsNewest :
    (List.replicate 19 (HistRec.mk .low 50 none)).length < 20 ∧
    20 ≤ (List.replicate 20 (HistRec.mk .low 50 none)).length := by decide

theorem test_meets_BufferIsTailOfAllBits : (zeros 2000).length ≤ 2000 ∧ 2000 < (zeros 2001).length := by
  simp only [zeros, List.length_replicate]; omega

theorem test_meets_DetectedBitCounter : gives (.dSample 9200 0 0) (toneState .f1000 okBits) (fun t =>
    t.dem.count == 51) = true := by decide

theorem test_meets_DebounceSeparatesTransitions : levelState.dem.level ≠ none ∧
    gives (.dSample 1370 51200 0) levelState (fun t => t.dem.tstart != levelState.dem.tstart) = true := by decide

theorem test_meets_DecodeBytesAndNonBlank : (zeros 16).length % 8 = 0 ∧ ([] : Bits).length % 8 = 0 := by decide

theorem test_meets_PreviewOfTrailingWindow :
    bitFind ((zeros 20).drop ((zeros 20).length - 200)) Config.startMarker 0 = none ∧
    bitFind (previewBits.drop (previewBits.length - 200)) Config.startMarker 0 = some 95 := by
  set_option maxRecDepth 4000 in decide

theorem test_meets_FrameSearchFindsFrame :
    (∀ v ∈ [0x4F#8, 0x4B#8], 1 ≤ v.toNat ∧ v.toNat ≤ 126) ∧ nonBlank [0x4F, 0x4B] = true ∧
    bitFind (zeros 19 ++ frameOf [0x4F, 0x4B]) Config.startMarker 0 = some (zeros 19).length ∧
    bitFind (frameOf [0x4F, 0x4B]) Config.endMarker 8 = some (8 + 8 * 2) := by decide

/-- The registers of P3 before step 11 have the demodulator's invariant. -/
theorem test_levelDemod_inv : DemodInv levelDemod where
  hist_len := by decide
  hist_alternates := by decide
  hist_newest := by decide
  hist_debounced := by decide
  hist_freq := by decide
  freq_mode := by decide
  buf_len := by decide
  buf_count := by decide
  buf_kept := by decide
  outside := by decide
  armed := by decide
  primed := by decide
  config := fun _ => by show badDemodConfig _ _ _ = false; decide
  final_complete := by decide
  final_text := by decide
  preview_text := by decide

/-- P3 before step 11, with a request waiting. -/
def levelBusy : State := { levelState with inbox := [.dreq 0x000000000000029E000000002#99] }

/-- The invariant of the whole block holds there. -/
theorem test_levelBusy_inv : Inv levelBusy where
  dem := test_levelDemod_inv
  level := fun _ _ => ⟨by decide, by decide, by show List.IsChain (fun x y => x ≠ y) _; decide, by decide⟩
  mod := ⟨by decide, by decide, nofun, nofun, by decide, nofun⟩
  pay := by decide
  hand := by decide

theorem test_meets_DrspFields : Instr.onD .dNop = true ∧ DemodInv levelState.dem := ⟨rfl, test_levelDemod_inv⟩

theorem test_meets_LevelModeAlwaysPending : Inv levelBusy ∧ levelBusy.dem.fsm.active = true ∧
    levelBusy.dem.mode = .level := ⟨test_levelBusy_inv, rfl, rfl⟩

theorem test_meets_CompleteTextStays : completeState.dem.fsm = .complete ∧
    [((9210 : BitVec 64), (0 : BitVec 16), (0 : BitVec 16))] ≠ [] := ⟨rfl, List.cons_ne_nil _ _⟩

theorem test_meets_SoundWithoutSilenceIsOneInterval :
    let s := toneState .f1000 []
    s.dem.fsm = .accumulating ∧ s.dem.mode = .tone ∧ s.dem.level = some .high ∧
    ∀ x ∈ [((9150 : BitVec 64), (51200 : BitVec 16), (0 : BitVec 16))],
      100 * max x.2.1.toNat x.2.2.toNat > 65280 * s.dem.sens.toNat := by
  refine ⟨rfl, rfl, rfl, fun x hx => ?_⟩
  rw [List.mem_singleton.1 hx]
  decide

/-- The registers of a fresh Tone-mode session have the demodulator's invariant. -/
theorem test_armed_tone_inv : DemodInv (armed .tone).dem where
  hist_len := by decide
  hist_alternates := by decide
  hist_newest := by decide
  hist_debounced := by decide
  hist_freq := by decide
  freq_mode := by decide
  buf_len := by decide
  buf_count := by decide
  buf_kept := by decide
  outside := by decide
  armed := by decide
  primed := by decide
  config := fun _ => by show badDemodConfig _ _ _ = false; decide
  final_complete := by decide
  final_text := by decide
  preview_text := by decide

/-- Slots for the bits after a sample at `t`: intensities at the threshold and one step above it, sounds of 50 ms for a 0
and 60 ms for a 1 with a second sample of both frequencies, silences of 50 ms. -/
def toneSlots : Bits → Nat → List ToneSlot
  | [], _ => []
  | b :: bs, t =>
    let e := t + 100 + (if b then 10 else 0)
    ⟨⟨BitVec.ofNat 64 (t + 50), if b then 0 else 32641, if b then 32641 else 0⟩, [⟨BitVec.ofNat 64 (t + 60), 51200, 51200⟩],
      ⟨BitVec.ofNat 64 e, 32640, 0⟩, []⟩ :: toneSlots bs e

/-- T20's payload "HELLO", after one sample of silence at 1000 ms. -/
theorem test_meets_ToneFrameReceived :
    let p : Text := [0x48, 0x45, 0x4C, 0x4C, 0x4F]
    let before : List ToneSample := [⟨1000, 0, 0⟩]
    5 ≤ p.length ∧ p.length ≤ 248 ∧ (∀ v ∈ p, 1 ≤ v.toNat ∧ v.toNat ≤ 126) ∧ nonBlank p = true ∧
    bitFind (frameOf p) Config.endMarker 8 = some (8 + 8 * p.length) ∧
    (armed .tone).dem.fsm = .armed ∧ (armed .tone).dem.level = none ∧ (armed .tone).dem.mode = .tone ∧
    (∀ x ∈ before, ¬ x.loud (armed .tone).dem.sens) ∧
    (∀ x ∈ before.head?, ∀ y ∈ (toneSlots (frameOf p) 1000).head?, x.ts.toNat + 50 ≤ y.sound.ts.toNat) ∧
    List.Forall₂ (ToneSlot.presents (armed .tone).dem.sens) (toneSlots (frameOf p) 1000) (frameOf p) ∧
    List.IsChain ToneSlot.spaced (toneSlots (frameOf p) 1000) := by
  set_option maxRecDepth 8000 in decide

theorem test_meets_InvariantKeptByEveryStep : Inv levelBusy ∧ stepGives levelBusy (fun t => t.inbox == []) = true :=
  ⟨test_levelBusy_inv, by decide⟩

theorem test_meets_OperationsChangeOnlyTheirPort : Instr.onM .mStep = true ∧ Instr.onD .dStop = true ∧
    Instr.isCmd (.cmdHigh 100) = true ∧ gives .reset levelState (fun t => t.act == levelState.act) = true := by decide

theorem test_meets_InterleavingIsInvisible :
    (∀ i ∈ [Instr.mStep, Instr.dSample 1370 51200 0, Instr.mStep], i.onM = true ∨ i.onD = true) ∧
    (match execAll [Instr.mStep, Instr.dSample 1370 51200 0, Instr.mStep]
        { running .level 0 false with dem := levelDemod } with
      | .next t => t.mod.k == 2 && t.dem.count == 5
      | _ => false) = true := by decide

theorem test_meets_ResetResult : ({ levelState with rst := 1 } : State).rst = 1 := by decide

/-- P5, no. 9, at any time: the input is asserted while a request waits, and that request stays. -/
theorem test_meets_ResetAtAnyTime :
    let s : State := { levelState with inbox := [.assertRst, .dreq 3] }
    s.rst ≠ 1 ∧ s.inbox = .assertRst :: [.dreq 3] ∧
    stepGives s (fun t => t.rst == 1 && stepGives t (fun u => u.dem.fsm == .idle && u.inbox == [.dreq 3])) = true := by
  decide

theorem test_meets_InertAfterReset :
    gives .reset levelState (fun t => t.dem.fsm == .idle && t.mod.fsm == .idle) = true ∧
    State.reset.dem.fsm = .idle ∧ State.reset.mod.fsm = .idle ∧
    ∀ i ∈ [Instr.dSample 1400 51200 0, .mStep, .dStop, .mCancel],
      (∀ mode n d, i ≠ .mStart mode n d) ∧ (∀ mode sens d, i ≠ .dStart mode sens d) ∧ i ≠ .reset := by
  refine ⟨by decide, rfl, rfl, fun i hi => ?_⟩
  simp only [List.mem_cons, List.not_mem_nil, or_false] at hi
  rcases hi with rfl | rfl | rfl | rfl <;> simp

theorem test_meets_DebugReadsRegisterMap : (13 ≤ 13 ∧ 13 ≤ 15) ∧ (13 ≤ 15 ∧ 15 ≤ 15) ∧ 23 ≤ 23 := by decide

end Sys2Proof.Tests
end

