-- ==== Sys2Proof/Proofs/Memory.lean ====
section
/-! PROOFS. BUF and HIST keep their newest entries (R62, R63). -/

namespace Sys2Proof.Proofs.Memory

open Sys2Proof Sys2Proof.Machine

/-- Room in BUF: the bit is appended and nothing is dropped (R62). -/
theorem bufAppend_of_lt {buf : Bits} (h : buf.length < 2000) (b : Bool) : bufAppend buf b = buf ++ [b] := by
  rcases bufAppend_cases buf b with ⟨-, e⟩ | ⟨hfull, -⟩
  · exact e
  · omega

/-- Room in HIST: the record is appended and nothing is evicted (R63). -/
theorem histPush_of_lt {hist : List HistRec} (h : hist.length < 20) (r : HistRec) :
    histPush hist r = hist ++ [r] := by
  rcases histPush_cases hist r with ⟨-, e⟩ | ⟨hfull, -⟩
  · exact e
  · omega

/-- Settles O37: the two cases of R62, with the length and the suffix fixing what a full buffer keeps. -/
theorem bufAppendKeepsNewest : Obligations.BufAppendKeepsNewest := by
  intro buf b
  have hlen := bufAppend_length buf b
  refine ⟨fun h => bufAppend_of_lt h b, fun hfull => ⟨?_, bufAppend_suffix buf b⟩, fun hle => ?_⟩
  · rw [hlen, if_neg (by omega)]
  · split_ifs at hlen <;> omega

/-- Settles O38: the two cases of R63, with the length and the suffix fixing what a full ring keeps. -/
theorem histPushKeepsNewest : Obligations.HistPushKeepsNewest := by
  intro hist r
  have hlen := histPush_length hist r
  exact ⟨fun h => histPush_of_lt h r, fun _ => ⟨by omega, histPush_suffix hist r⟩, by omega, by omega⟩

end Sys2Proof.Proofs.Memory
end

/-! PROOFS. The words of the ports field by field, the byte codec and the frame (30_encoding.md R90 to R100, R108). -/

namespace Sys2Proof.Proofs.Encoding

open Sys2Proof Sys2Proof.Machine

/-! The byte codec -/

/-- A bit string spells a number below the power of two of its length. -/
theorem bitsVal_lt (g : Bits) : bitsVal g < 2 ^ g.length := by
  induction g using List.reverseRecOn with
  | nil => decide
  | append_singleton g b ih =>
    have hb : b.toNat ≤ 1 := Bool.toNat_le b
    have hstep : bitsVal (g ++ [b]) = 2 * bitsVal g + b.toNat := by simp [bitsVal]
    rw [hstep, List.length_append, List.length_singleton, Nat.pow_succ]
    omega

/-- `Val8` of at most eight bits loses nothing to the width of a byte. -/
theorem val8_toNat (g : Bits) (h : g.length ≤ 8) : (val8 g).toNat = bitsVal g :=
  Nat.mod_eq_of_lt ((bitsVal_lt g).trans_le (Nat.pow_le_pow_right (by decide) h))

/-- Settles O8: the eight positions of a byte, and the bits' weights summed Horner's way. -/
theorem byteCodecMsbFirst : Obligations.ByteCodecMsbFirst := by
  refine ⟨fun v => ⟨bits8_length v, fun i hi => ?_⟩, fun g0 g1 g2 g3 g4 g5 g6 g7 => ?_⟩
  · interval_cases i <;> rfl
  · rw [val8_toNat _ (by simp)]
    simp only [bitsVal, List.foldl_cons, List.foldl_nil]
    omega

/-! The frame -/

theorem frameOf_startMarker (p : List Byte) : bitSub (frameOf p) 0 8 = Config.startMarker := by
  rw [frameOf, List.append_assoc, bitSub_append_left _ _ _ _ (by simp)]
  rfl

theorem frameOf_byte (p : List Byte) (j : Nat) (h : j < p.length) :
    bitSub (frameOf p) (8 + 8 * j) 8 = bits8 p[j] := by
  rw [frameOf, List.append_assoc, ← startMarker_length, bitSub_append_right, startMarker_length,
    bitSub_append_left _ _ _ _ (by rw [flatMap_bits8_length]; omega)]
  exact bitSub_flatMap_bits8 p j h

theorem frameOf_endMarker (p : List Byte) : bitSub (frameOf p) (8 + 8 * p.length) 8 = Config.endMarker := by
  have hlen : 8 + 8 * p.length = (Config.startMarker ++ p.flatMap bits8).length + 0 := by
    rw [List.length_append, startMarker_length, flatMap_bits8_length, Nat.add_zero]
  rw [frameOf, hlen, bitSub_append_right]
  rfl

/-- Ending a sequence leaves FRAME loaded (R134). -/
theorem tearDown_frame (m : Modulator) : m.tearDown.1.frame = m.frame := by
  rcases m.tearDown_cases with ⟨-, e⟩ | ⟨-, e⟩ <;> rw [e]

/-- A refused M_START loads no frame and sets m_err (R134, R233). -/
theorem start_of_bad {pm : Nat} {mode : Mode} {n : BitVec 16} {t : BitVec 32} (h : badModStart pm mode n t = true)
    (pay : Memory) (m : Modulator) :
    (m.start pm pay mode n t).1.frame = m.frame ∧ (m.start pm pay mode n t).1.err = true := by
  rcases m.start_cases pm pay mode n t with ⟨-, e⟩ | ⟨hgood, -⟩
  · rw [e]
    exact ⟨tearDown_frame m, rfl⟩
  · rw [h] at hgood
    cases hgood

/-- Settles O9: the three fields of R90 each at its place, and a start with N = 0 is a refused one (R134). -/
theorem frameFieldPositions : Obligations.FrameFieldPositions := by
  refine ⟨fun p => ⟨frameOf_length p, frameOf_startMarker p, frameOf_byte p, frameOf_endMarker p⟩,
    fun mode t s => ⟨_, exec_mStart mode 0 t s, ?_⟩⟩
  have hbad : badModStart s.straps.payloadMax.val mode 0 t = true := (badModStart_eq_true ..).mpr (.inl rfl)
  exact start_of_bad hbad s.pay s.mod

/-! Request words -/

/-- Bit i of a field is the word's bit i places above the field's start. -/
theorem field_getLsbD {k : Nat} (w : BitVec k) (start len i : Nat) (h : i < len) :
    (w.extractLsb' start len).getLsbD i = w.getLsbD (start + i) := by
  simp [h]

theorem ofBit_eq_tone_iff (b : Bool) : Mode.ofBit b = .tone ↔ b = true := by
  cases b <;> decide

/-- An operation code of 4 to 7 is none of the four that R99 and R100 name. -/
theorem ne_of_four_le {op : BitVec 3} (h : 4 ≤ op.toNat) : op ≠ 0 ∧ op ≠ 1 ∧ op ≠ 2 ∧ op ≠ 3 := by
  refine ⟨?_, ?_, ?_, ?_⟩ <;> rintro rfl <;> exact absurd h (by decide)

/-- What the table both ports share selects: one row for each of the codes 0 to 3, the last row for 4 to 7 (R99, R100,
R108). -/
theorem row_of_op {α : Type} {op : BitVec 3} {r r0 r1 r2 r3 reserved : α}
    (hr : r = if op = 0 then r0 else if op = 1 then r1 else if op = 2 then r2 else if op = 3 then r3 else reserved) :
    (op = 0 → r = r0) ∧ (op = 1 → r = r1) ∧ (op = 2 → r = r2) ∧ (op = 3 → r = r3) ∧
    (4 ≤ op.toNat → r = reserved) := by
  subst hr
  refine ⟨?_, ?_, ?_, ?_, fun h => ?_⟩
  case refine_5 =>
    obtain ⟨h0, h1, h2, h3⟩ := ne_of_four_le h
    rw [if_neg h0, if_neg h1, if_neg h2, if_neg h3]
  all_goals
    rintro rfl
    rfl

/-- The operation of an M-port word, by its code (R99). -/
theorem decodeM_op (w : BitVec 52) :
    (w.extractLsb' 0 3 = 0 → decodeM w = .mNop) ∧
    (w.extractLsb' 0 3 = 1 →
      decodeM w = .mStart (Mode.ofBit (w.getLsbD 3)) (w.extractLsb' 4 16) (w.extractLsb' 20 32)) ∧
    (w.extractLsb' 0 3 = 2 → decodeM w = .mStep) ∧
    (w.extractLsb' 0 3 = 3 → decodeM w = .mCancel) ∧
    (4 ≤ (w.extractLsb' 0 3).toNat → decodeM w = .mReserved (w.extractLsb' 0 3)) :=
  row_of_op rfl

/-- The operation of a D-port word, by its code (R100). -/
theorem decodeD_op (w : BitVec 99) :
    (w.extractLsb' 0 3 = 0 → decodeD w = .dNop) ∧
    (w.extractLsb' 0 3 = 1 →
      decodeD w = .dStart (Mode.ofBit (w.getLsbD 3)) (w.extractLsb' 4 7) (w.extractLsb' 11 32)) ∧
    (w.extractLsb' 0 3 = 2 →
      decodeD w = .dSample (w.extractLsb' 35 64) (w.extractLsb' 3 16) (w.extractLsb' 19 16)) ∧
    (w.extractLsb' 0 3 = 3 → decodeD w = .dStop) ∧
    (4 ≤ (w.extractLsb' 0 3).toNat → decodeD w = .dReserved (w.extractLsb' 0 3)) :=
  row_of_op rfl

/-- RESET is read from the reset input at 1 (R260). -/
theorem decode_rst_eq_reset_iff (w : BitVec 1) : decode (.rst w) = .ok .reset ↔ w = 1 := by
  simp only [decode]
  split_ifs with h
  · exact iff_of_true rfl h
  · exact iff_of_false nofun h

/-- Settles O5: the code chooses the operation, and each operand is a field of the word. -/
theorem operationCodesAndFields : Obligations.OperationCodesAndFields := by
  refine ⟨fun w => ?_, fun w => ?_, decode_rst_eq_reset_iff⟩
  · obtain ⟨nop, start, step, cancel, reserved⟩ := decodeM_op w
    exact ⟨fun h => congrArg _ (nop h),
      fun h => ⟨_, _, _, congrArg _ (start h), ofBit_eq_tone_iff _, field_getLsbD w 4 16, field_getLsbD w 20 32⟩,
      fun h => congrArg _ (step h), fun h => congrArg _ (cancel h), fun h => congrArg _ (reserved h)⟩
  · obtain ⟨nop, start, sample, stop, reserved⟩ := decodeD_op w
    exact ⟨fun h => congrArg _ (nop h),
      fun h => ⟨_, _, _, congrArg _ (start h), ofBit_eq_tone_iff _, field_getLsbD w 4 7, field_getLsbD w 11 32⟩,
      fun h => ⟨_, _, _, congrArg _ (sample h), field_getLsbD w 3 16, field_getLsbD w 19 16, field_getLsbD w 35 64⟩,
      fun h => congrArg _ (stop h), fun h => congrArg _ (reserved h)⟩

/-! Command words -/

theorem word_valid (c : Cmd) : c.word.getLsbD 0 = c.valid := by
  rw [getLsbD_eq_extract, Cmd.word, extract_append_low _ _ _ _ _ _ (by decide), extract_whole]
  simp

theorem word_state (c : Cmd) : c.word.extractLsb' 1 3 = c.state.code := by
  rw [Cmd.word, extract_append_high _ _ _ _ _ _ (by decide), extract_append_low _ _ _ _ _ _ (by decide),
    extract_whole]

theorem word_last (c : Cmd) : c.word.getLsbD 4 = c.last := by
  rw [getLsbD_eq_extract, Cmd.word, extract_append_high _ _ _ _ _ _ (by decide),
    extract_append_high _ _ _ _ _ _ (by decide), extract_append_low _ _ _ _ _ _ (by decide), extract_whole]
  simp

theorem word_dur (c : Cmd) : c.word.extractLsb' 5 32 = c.dur := by
  rw [Cmd.word, extract_append_high _ _ _ _ _ _ (by decide), extract_append_high _ _ _ _ _ _ (by decide),
    extract_append_high _ _ _ _ _ _ (by decide), extract_whole]

/-- A command of the M port without the valid bit is the empty one (R97). -/
theorem eq_none_of_not_valid {c : Cmd} (hc : c = Cmd.none ∨ c.answerable) (h : c.valid = false) : c = Cmd.none := by
  rcases hc with e | rfl | ⟨hv, -, -⟩
  · exact e
  · cases h
  · rw [h] at hv
    cases hv

/-- A command of the M port marked the last is the closing one (R97, R135). -/
theorem eq_closing_of_last {c : Cmd} (hc : c = Cmd.none ∨ c.answerable) (h : c.last = true) : c = Cmd.closing := by
  rcases hc with rfl | e | ⟨-, hl, -⟩
  · cases h
  · exact e
  · rw [h] at hl
    cases hl

/-- Settles O6: the fields of the word, and the commands an M-port operation can answer with. -/
theorem commandWordFields : Obligations.CommandWordFields := by
  refine ⟨fun c => ⟨word_valid c, word_state c, word_last c, word_dur c⟩, fun i s s' hi hexec => ?_⟩
  rw [exec_onM i s hi] at hexec
  cases hexec
  have hcmd := s.mod.answer_cmd s.straps s.pay i
  refine ⟨_, State.answerM_mRsp .., rfl, rfl, fun h => ?_, eq_closing_of_last hcmd⟩
  have hnone : (s.mod.answer s.straps s.pay i).2 = Cmd.none := eq_none_of_not_valid hcmd h
  rw [MRsp.of_cmd, hnone]
  decide

end Sys2Proof.Proofs.Encoding

/-! PROOFS. The MODULATOR: the frame a start loads, the command of each index, the operations that answer no command
(40_modulator.md R131 to R137). -/

namespace Sys2Proof.Proofs.Modulator

open Sys2Proof Sys2Proof.Machine

/-! The operations that answer no command -/

/-- An answer without a command leaves the driver's hand as it was (R97). -/
theorem answerM_none (s : State) (m : Machine.Modulator) :
    s.answerM (m, Cmd.none) = { s with mod := m, mRsp := some ⟨⟨false, .idle, false, 0⟩, m.fsm, m.err⟩ } := rfl

/-- While a sequence runs, M_CANCEL latches the stop signal (R136). -/
theorem requestCancel_of_run {m : Machine.Modulator} (h : m.fsm = .run) :
    m.requestCancel = { m with cancel := true } := if_pos h

/-- Outside M_RUN, M_CANCEL changes no register (R136). -/
theorem requestCancel_of_ne_run {m : Machine.Modulator} (h : m.fsm ≠ .run) : m.requestCancel = m := if_neg h

/-- Settles O15: both operations answer the unchanged MODULATOR and no command. -/
theorem mNopAndReservedResult : Obligations.MNopAndReservedResult := by
  intro s op
  rw [exec_mNop, exec_mReserved, answerM_none]
  exact ⟨rfl, rfl⟩

/-- Settles O18: the two cases of R136, each answered with no command. -/
theorem mCancelResult : Obligations.MCancelResult := by
  intro s
  rw [exec_mCancel, answerM_none]
  refine ⟨fun hrun => ?_, fun hidle => ?_⟩
  · rw [requestCancel_of_run hrun, ← hrun]
  · rw [requestCancel_of_ne_run hidle]

/-! The command of each index -/

theorem frameBit_of_lt {f : Bits} {i : Nat} (h : i < f.length) : frameBit f i = f[i] :=
  (List.getElem_eq_getD false).symm

/-- An even index of a Level-mode sequence gives a bit as a level (R132). -/
theorem frameCmd_level_even (f : Bits) (t : BitVec 32) {k : Nat} (h : k % 2 = 0) :
    frameCmd .level f t k = .frame (if frameBit f (k / 2) then .high else .low) t := if_pos h

/-- An odd index of a Level-mode sequence gives the sync after a bit (R132). -/
theorem frameCmd_level_odd (f : Bits) (t : BitVec 32) {k : Nat} (h : k % 2 = 1) :
    frameCmd .level f t k = .frame .syncGray (syncDur t) := if_neg (by omega)

/-- Every index of a Tone-mode sequence gives a bit as a tone (R133). -/
theorem frameCmd_tone (f : Bits) (t : BitVec 32) (k : Nat) :
    frameCmd .tone f t k = .frame (if frameBit f k then .tone1000 else .tone600) t := rfl

/-- Settles O19: the parity of the index chooses between a bit and its sync, whose duration does not wrap (R107). -/
theorem levelFrameCommand : Obligations.LevelFrameCommand := by
  intro f t k
  refine ⟨fun h heven => ?_, fun hodd => ⟨syncDur t, frameCmd_level_odd f t hodd, syncDur_toNat t⟩⟩
  rw [frameCmd_level_even f t heven, frameBit_of_lt h, Cmd.frame]

/-- Settles O20: inside the frame the bit of index k is read from FRAME itself. -/
theorem toneFrameCommand : Obligations.ToneFrameCommand := by
  intro f t k h
  rw [frameCmd_tone, frameBit_of_lt h, Cmd.frame]

/-! The frame a start loads -/

/-- A performed M_START loads the sequence after ending a running one (R134). -/
theorem start_of_good {pm : Nat} {mode : Mode} {n : BitVec 16} {t : BitVec 32} (h : badModStart pm mode n t = false)
    (pay : Memory) (m : Machine.Modulator) :
    m.start pm pay mode n t = (m.tearDown.1.load mode t (payload pay n.toNat), m.tearDown.2) := by
  rcases m.start_cases pm pay mode n t with ⟨hbad, -⟩ | ⟨-, e⟩
  · rw [h] at hbad
    cases hbad
  · exact e

/-- After a performed M_START, FRAME is the frame of PAY[0 .. N-1] (R131, R134). -/
theorem exec_mStart_frame {mode : Mode} {n : BitVec 16} {t : BitVec 32} {s s' : State}
    (hgood : badModStart s.straps.payloadMax.val mode n t = false) (hexec : exec (.mStart mode n t) s = .next s') :
    s'.mod.frame = frameOf (payload s.pay n.toNat) := by
  rw [exec_mStart, start_of_good hgood] at hexec
  cases hexec
  rfl

/-- Settles O21: the loaded FRAME is the frame of the payload, whose fields R90 places and whose byte j is PAY[j]. -/
theorem buildFrameReadsPayload : Obligations.BuildFrameReadsPayload := by
  intro mode n t s s' hgood hexec
  have hlen : (payload s.pay n.toNat).length = n.toNat := payload_length ..
  rw [exec_mStart_frame hgood hexec]
  refine ⟨?_, Encoding.frameOf_startMarker _, fun j hj => ?_, ?_⟩
  · rw [frameOf_length, hlen]
  · have hj' : j < (payload s.pay n.toNat).length := hlen.symm ▸ hj
    rw [Encoding.frameOf_byte _ j hj', payload_getElem]
  · have hend := Encoding.frameOf_endMarker (payload s.pay n.toNat)
    rwa [hlen] at hend

end Sys2Proof.Proofs.Modulator

/-! PROOFS. The operations of a session: D_NOP and the reserved codes, D_STOP, D_START (41_demod_session.md R150 to
R152). -/

namespace Sys2Proof.Proofs.Session

open Sys2Proof Sys2Proof.Machine

/-! The three active states and the ending of a session -/

theorem active_iff (f : DFsm) : f.active = true ↔ f = .armed ∨ f = .accumulating ∨ f = .complete := by
  cases f <;> decide

/-- Inside a session, ending it discards everything but the configuration and the flag (R151). -/
theorem tearDown_of_active {d : Demod} (h : d.fsm.active = true) : d.tearDown = { d.fresh with fsm := .stopped } :=
  if_pos h

/-- Outside a session, there is nothing to end (R151). -/
theorem tearDown_of_not_active {d : Demod} (h : ¬ d.fsm.active = true) : d.tearDown = d := if_neg h

/-- A fresh session holds nothing of the one it replaces, so that the tear-down before it leaves no trace (R150). -/
theorem arm_tearDown (d : Demod) (mode : Mode) (sens : BitVec 7) (t : BitVec 32) :
    d.tearDown.arm mode sens t = d.arm mode sens t := by
  rcases d.tearDown_cases with ⟨-, e⟩ | ⟨-, e⟩
  · rw [e]
  · rw [e]
    rfl

/-! The validation of D_START -/

theorem bitdurMin_eq (mode : Mode) : Config.bitdurMin mode = if mode = .level then 50 else 100 := by
  cases mode <;> rfl

theorem bitdurMax_eq (mode : Mode) : Config.bitdurMax mode = if mode = .level then 500 else 1000 := by
  cases mode <;> rfl

/-- The refusing operands with the bounds of R150 as numbers. -/
theorem badDemodConfig_iff (mode : Mode) (sens : BitVec 7) (t : BitVec 32) :
    badDemodConfig mode sens t = true ↔ sens.toNat < 10 ∨ 90 < sens.toNat ∨
      t.toNat < (if mode = .level then 50 else 100) ∨ (if mode = .level then 500 else 1000) < t.toNat := by
  rw [badDemodConfig_eq_true, bitdurMin_eq, bitdurMax_eq]

/-- A refused D_START only ends the session and raises the flag (R150, R232). -/
theorem start_of_bad {mode : Mode} {sens : BitVec 7} {t : BitVec 32} (h : badDemodConfig mode sens t = true)
    (d : Demod) : d.start mode sens t = d.tearDown.raiseBadConfig := if_pos h

/-- A performed D_START begins the same session whether or not another one was active (R150). -/
theorem start_of_good {mode : Mode} {sens : BitVec 7} {t : BitVec 32} (h : ¬ badDemodConfig mode sens t = true)
    (d : Demod) : d.start mode sens t = d.arm mode sens t := (if_neg h).trans (arm_tearDown d mode sens t)

/-! The obligations -/

/-- Settles O24: both operations answer the unchanged DEMODULATOR. -/
theorem dNopAndReservedResult : Obligations.DNopAndReservedResult := by
  intro s op
  rw [exec_dNop, exec_dReserved]
  exact ⟨rfl, rfl⟩

/-- Settles O25: validation chooses between refusing and arming; a refusal shows whether there was a session to end,
and arming does not. -/
theorem dStartResult : Obligations.DStartResult := by
  intro mode sens t s active fresh lo hi refused ended kept begun
  have hbad : badDemodConfig mode sens t = true ↔ refused := badDemodConfig_iff mode sens t
  have hactive : s.dem.fsm.active = true ↔ active := active_iff s.dem.fsm
  rw [exec_dStart]
  refine ⟨fun hr ha => ?_, fun hr ha => ?_, fun hr => ?_⟩
  · rw [start_of_bad (hbad.mpr hr), tearDown_of_active (hactive.mpr ha)]
    rfl
  · rw [start_of_bad (hbad.mpr hr), tearDown_of_not_active (mt hactive.mp ha)]
    rfl
  · rw [start_of_good (mt hbad.mp hr)]
    rfl

/-- Settles O26: ending a session, in its two cases. -/
theorem dStopResult : Obligations.DStopResult := by
  intro s active ended
  have hactive : s.dem.fsm.active = true ↔ active := active_iff s.dem.fsm
  rw [exec_dStop]
  refine ⟨fun ha => ?_, fun ha => ?_⟩
  · rw [tearDown_of_active (hactive.mpr ha)]
    rfl
  · rw [tearDown_of_not_active (mt hactive.mp ha)]
    rfl

end Sys2Proof.Proofs.Session

/-! PROOFS. D_SAMPLE: stage 1 (42_demod_sample.md R171 to R173), the candidate and debounce test and the accepted
transition (R174 to R176), the bit of a transition (R177, R178), and the stages that follow a bit (R179, R204, R206). -/

namespace Sys2Proof.Proofs.Sample

open Sys2Proof Sys2Proof.Machine

/-! Stage 1: binarize -/

/-- The comparison of R173 with its factors as numbers. -/
theorem levelOf_eq (sens : BitVec 7) (x : BitVec 16) :
    levelOf sens x = if 100 * x.toNat > 65280 * sens.toNat then .high else .low := by
  simp only [levelOf, aboveThreshold, decide_eq_true_eq]
  rfl

theorem maxWord_toNat (a b : BitVec 16) : (maxWord a b).toNat = max a.toNat b.toNat := by
  unfold maxWord
  split_ifs with h
  · exact (max_eq_right h.le).symm
  · exact (max_eq_left (not_lt.mp h)).symm

/-- Settles O29: both modes compare their intensity by R173, and in Tone mode the intensity is the larger energy. -/
theorem binarizeExact : Obligations.BinarizeExact := by
  intro tie sens a b
  constructor
  · rw [binarize, levelOf_eq]
  · rw [binarize, levelOf_eq, maxWord_toNat, dominant]

/-! Stage 2: priming, the candidate and debounce test, the accepted transition -/

theorem debounce_eq (mode : Mode) : debounce mode = if mode = .level then 30 else 50 := by
  cases mode <;> rfl

/-- In ARMED and ACCUMULATING a sample reaches stages 1 and 2 (R170). -/
theorem sample_of_receiving {d : Demod} (hfsm : d.fsm = .armed ∨ d.fsm = .accumulating) (tie : Band) (ts : BitVec 64)
    (a b : BitVec 16) : d.sample tie ts a b = d.senseStage tie ts a b := by
  rcases hfsm with h | h <;> simp only [Demod.sample, h]

/-- Stage 2a (R174). -/
theorem senseStage_of_no_level {d : Demod} (hlevel : d.level = none) (tie : Band) (ts : BitVec 64) (a b : BitVec 16) :
    d.senseStage tie ts a b =
      (d.begin (binarize tie d.mode d.sens a b).1 (binarize tie d.mode d.sens a b).2 ts, .pending) := by
  simp only [Demod.senseStage, hlevel]

/-- Stage 2b (R175): with the elapsed time saturating at 0, the debounce test is a comparison of timestamps. -/
theorem senseStage_of_level {d : Demod} {l : Lvl} (hlevel : d.level = some l) (tie : Band) (ts : BitVec 64)
    (a b : BitVec 16) :
    d.senseStage tie ts a b =
      if (binarize tie d.mode d.sens a b).1 = l ∨ ts.toNat < d.tstart.toNat + (if d.mode = .level then 30 else 50)
      then (d, .pending)
      else (d.accept l (elapsed ts d.tstart) (binarize tie d.mode d.sens a b).1
        (binarize tie d.mode d.sens a b).2 ts).bitStage := by
  have htest : (elapsed ts d.tstart).toNat < debounce d.mode ↔
      ts.toNat < d.tstart.toNat + (if d.mode = .level then 30 else 50) := by
    rw [← debounce_eq, ← not_le, debounce_le_elapsed_iff, not_le]
  simp only [Demod.senseStage, hlevel, ite_or, htest]

/-- The registers after an accepted transition of a session that was ARMED or ACCUMULATING (R176): the record of the
level that ended is pushed, and the sample begins a new one. -/
def afterTransition (d : Demod) (ended : Lvl) (bin : Lvl × Option Band) (ts : BitVec 64) : Demod :=
  { d with
    level := some bin.1, freq := bin.2, tstart := ts, fsm := .accumulating
    hist := histPush d.hist ⟨ended, ts - d.tstart, d.freq⟩ }

theorem accept_eq_afterTransition {d : Demod} (hfsm : d.fsm = .armed ∨ d.fsm = .accumulating) {ts : BitVec 64}
    (hle : d.tstart.toNat ≤ ts.toNat) (ended : Lvl) (bin : Lvl × Option Band) :
    d.accept ended (elapsed ts d.tstart) bin.1 bin.2 ts = afterTransition d ended bin ts := by
  have hel : elapsed ts d.tstart = ts - d.tstart := if_pos hle
  rw [hel]
  rcases hfsm with h | h <;> simp [Demod.accept, Demod.begin, afterTransition, h]

/-- An accepted sample (R175, R176) is handed to stages 3 to 6 with the transition recorded. -/
theorem sample_of_accepted {d : Demod} {l : Lvl} {tie : Band} {ts : BitVec 64} {a b : BitVec 16}
    (hfsm : d.fsm = .armed ∨ d.fsm = .accumulating) (hlevel : d.level = some l)
    (hne : (binarize tie d.mode d.sens a b).1 ≠ l)
    (hle : d.tstart.toNat + (if d.mode = .level then 30 else 50) ≤ ts.toNat) :
    d.sample tie ts a b = (afterTransition d l (binarize tie d.mode d.sens a b) ts).bitStage := by
  rw [sample_of_receiving hfsm, senseStage_of_level hlevel, if_neg (by simp [hne, hle]),
    accept_eq_afterTransition hfsm (le_of_add_le_left hle)]

/-- In Level mode no record of the history has a frequency, the one an accepted transition pushes included (R176). -/
theorem hist_freq_afterTransition {d : Demod} (hinv : DemodInv d) (hmode : d.mode = .level) (ended : Lvl)
    (bin : Lvl × Option Band) (ts : BitVec 64) : ∀ r ∈ (afterTransition d ended bin ts).hist, r.freq = none := by
  intro r hr
  have hmem : r ∈ d.hist ++ [⟨ended, ts - d.tstart, d.freq⟩] := (histPush_suffix _ _).subset hr
  rcases List.mem_append.mp hmem with hold | hnew
  · simpa [hmode] using hinv.hist_freq r hold
  · obtain rfl := List.mem_singleton.mp hnew
    simpa [hmode] using hinv.freq_mode

/-- Settles O31: with no level yet the sample is stage 2a's. -/
theorem firstSamplePrimes : Obligations.FirstSamplePrimes := by
  intro ts a b s hfsm hlevel bin primed
  rw [exec_dSample, sample_of_receiving hfsm, senseStage_of_no_level hlevel]
  rfl

/-! The stages after an accepted transition -/

/-- What stages 3 to 6 leave of a transition: the current-state record and the history, and the session is where it
was or COMPLETE. -/
structure KeepsTransition (d d' : Demod) : Prop where
  level : d'.level = d.level
  freq : d'.freq = d.freq
  tstart : d'.tstart = d.tstart
  hist : d'.hist = d.hist
  fsm : d'.fsm = d.fsm ∨ d'.fsm = .complete

theorem previewStage_keepsTransition (d : Demod) : KeepsTransition d d.previewStage.1 := by
  rcases d.previewStage_cases with ⟨p, -, -, -, e⟩ | ⟨-, e⟩ <;> rw [e] <;> exact ⟨rfl, rfl, rfl, rfl, .inl rfl⟩

theorem searchStage_keepsTransition (d : Demod) : KeepsTransition d d.searchStage.1 := by
  rcases d.searchStage_cases with ⟨t, -, -, e⟩ | ⟨-, e⟩ <;> rw [e]
  · exact ⟨rfl, rfl, rfl, rfl, .inr rfl⟩
  · exact previewStage_keepsTransition d

theorem bitStage_keepsTransition (d : Demod) : KeepsTransition d d.bitStage.1 := by
  rcases d.bitStage_cases with ⟨-, e⟩ | ⟨bit, -, e⟩ <;> rw [e]
  · exact ⟨rfl, rfl, rfl, rfl, .inl rfl⟩
  · obtain ⟨hlevel, hfreq, htstart, hhist, hfsm⟩ := searchStage_keepsTransition (d.accumulate bit)
    exact ⟨hlevel, hfreq, htstart, hhist, hfsm⟩

/-- Settles O32: a rejected sample is stage 2b's; an accepted one records its transition, which the stages after it
keep. -/
theorem candidateAndDebounceTest : Obligations.CandidateAndDebounceTest := by
  intro ts a b l s hfsm hlevel bin rejected
  rw [exec_dSample]
  refine ⟨fun hrej => ?_, fun hacc => ?_⟩
  · rw [sample_of_receiving hfsm, senseStage_of_level hlevel, if_pos hrej]
    rfl
  · obtain ⟨hne, hlt⟩ := not_or.mp hacc
    rw [sample_of_accepted hfsm hlevel hne (not_lt.mp hlt)]
    have kept := bitStage_keepsTransition (afterTransition s.dem l bin ts)
    refine ⟨_, rfl, kept.level, kept.freq, kept.tstart, kept.hist, kept.fsm, fun hinv hmode => ?_⟩
    rw [State.answerD_dem, kept.hist]
    exact hist_freq_afterTransition hinv hmode l bin ts

/-! Stage 3: the bit of a transition -/

/-- Fewer than two records have no direction (R177). -/
theorem extractLevel_of_length_lt_two {hist : List HistRec} (h : hist.length < 2) : extractLevel hist = none := by
  match hist, h with
  | [], _ => rfl
  | [_], _ => rfl
  | _ :: _ :: _, h => simp at h

/-- Settles O35: too few records, and the direction between the two newest. -/
theorem levelBitIsDirection : Obligations.LevelBitIsDirection := by
  refine ⟨fun hist => extractLevel_of_length_lt_two, fun pre p r => ?_⟩
  rw [extractBit, extractLevel_concat]
  refine ⟨fun hp hr => ?_, fun hp hr => ?_, fun heq => ?_⟩
  · simp [hp, hr]
  · simp [hp, hr]
  · cases hr : r.level <;> simp [heq, hr]

/-- Settles O36: the frequency of the newest record, when that is a sound. -/
theorem toneBitIsFrequency : Obligations.ToneBitIsFrequency := by
  refine ⟨rfl, fun pre dur f => ?_⟩
  simp only [extractBit, extractTone_concat]
  exact ⟨rfl, rfl, rfl, rfl⟩

/-! Stages 4 to 6 -/

/-- The saturating increment stops at the largest count, which it leaves as it is (R28, R179). -/
theorem satInc_eq (c : BitVec 64) : satInc c = if c.toNat + 1 < 2 ^ 64 then c + 1 else c := by
  unfold satInc
  split_ifs with h
  · rfl
  · apply BitVec.eq_of_toNat_eq
    have := c.isLt
    rw [BitVec.toNat_allOnes]
    omega

/-- Stage 4 (R179). -/
theorem accumulate_eq (d : Demod) (bit : Bool) :
    d.accumulate bit = { d with
      buf := bufAppend d.buf bit
      count := if d.count.toNat + 1 < 2 ^ 64 then d.count + 1 else d.count } := by
  rw [← satInc_eq]
  rfl

theorem bitStage_of_bit {d : Demod} {bit : Bool} (h : extractBit d.mode d.hist = some bit) :
    d.bitStage = (d.accumulate bit).searchStage := by
  simp only [Demod.bitStage, h]

/-- Stage 5 with a frame found (R204). -/
theorem searchStage_of_found {d : Demod} {t : Text} (hlen : 50 < d.buf.length) (hfound : frameSearch d.buf = some t) :
    d.searchStage = ({ d with final := t, fsm := .complete }, .complete t) := by
  simp only [Demod.searchStage, gt_iff_lt, if_pos hlen, hfound]

/-- Stage 5 without one (R204). -/
theorem searchStage_of_not_found {d : Demod} (h : d.buf.length ≤ 50 ∨ frameSearch d.buf = none) :
    d.searchStage = d.previewStage := by
  rcases d.searchStage_cases with ⟨t, hlen, hfound, -⟩ | ⟨-, e⟩
  · rcases h with hshort | hnone
    · omega
    · simp [hfound] at hnone
  · exact e

/-- Stage 6 with a new preview (R206). -/
theorem previewStage_of_new {d : Demod} {p : Text} (hlen : 100 < d.buf.length) (hp : previewText d.buf = some p)
    (hnew : p ≠ d.preview) : d.previewStage = ({ d with preview := p }, .partialText p) := by
  simp only [Demod.previewStage, gt_iff_lt, if_pos hlen, hp, if_neg hnew]

/-- Stage 6 without one (R206). -/
theorem previewStage_of_not_new {d : Demod}
    (h : d.buf.length ≤ 100 ∨ previewText d.buf = none ∨ previewText d.buf = some d.preview) :
    d.previewStage = (d, .pending) := by
  rcases d.previewStage_cases with ⟨p, hlen, hp, hnew, -⟩ | ⟨-, e⟩
  · rcases h with hshort | hnone | hsame
    · omega
    · simp [hp] at hnone
    · exact absurd (Option.some.inj (hp.symm.trans hsame)) hnew
  · exact e

/-- Settles O34: the accepted sample reaches stage 4 with its transition recorded and its bit; stages 5 and 6 then see
the buffer that holds the bit. -/
theorem acceptedWithBit : Obligations.AcceptedWithBit := by
  intro ts a b l bit s hfsm hlevel bin hne hle hist hbit buf got
  have hbit' : (afterTransition s.dem l bin ts).bitStage = got.searchStage := by
    rw [bitStage_of_bit hbit, accumulate_eq]
    rfl
  rw [exec_dSample, sample_of_accepted hfsm hlevel hne hle, hbit']
  refine ⟨fun t hlen hfound => ?_, fun hnot => ⟨fun p hlen hp hnew => ?_, fun hsame => ?_⟩⟩
  · rw [searchStage_of_found (d := got) hlen hfound]
    rfl
  · rw [searchStage_of_not_found (d := got) hnot, previewStage_of_new (d := got) hlen hp hnew]
    rfl
  · rw [searchStage_of_not_found (d := got) hnot, previewStage_of_not_new (d := got) hsame]
    rfl

end Sys2Proof.Proofs.Sample

/-! PROOFS. The frame decoder: marker search, byte decode, frame search and live preview (43_frame_decoder.md R200 to
R203, R205). -/

namespace Sys2Proof.Proofs.FrameDecoder

open Sys2Proof Sys2Proof.Machine

/-! Marker search -/

/-- `find` answers `i` exactly when the pattern stands at `i` and at no earlier index (R200). -/
theorem bitFind_eq_some_iff (s pat : Bits) (start i : Nat) :
    bitFind s pat start = some i ↔
      (start ≤ i ∧ i + pat.length ≤ s.length ∧ bitSub s i pat.length = pat) ∧
      ∀ j, start ≤ j → j + pat.length ≤ s.length → bitSub s j pat.length = pat → i ≤ j := by
  constructor
  · intro hfind
    obtain ⟨hstart, hfits, hat, hfirst⟩ := bitFind_some s pat start i hfind
    exact ⟨⟨hstart, hfits, hat⟩, fun j hj _ hatj => not_lt.1 fun hlt => hfirst j hj hlt hatj⟩
  · rintro ⟨⟨hstart, hfits, hat⟩, hleast⟩
    exact bitFind_of_least s pat start i hstart hfits hat fun j hj hlt hatj =>
      absurd (hleast j hj (by omega) hatj) (not_le.2 hlt)

/-- `find` answers NONE exactly when the pattern stands nowhere (R200). -/
theorem bitFind_eq_none_iff (s pat : Bits) (start : Nat) :
    bitFind s pat start = none ↔ ∀ j, start ≤ j → j + pat.length ≤ s.length → bitSub s j pat.length ≠ pat := by
  refine ⟨bitFind_none s pat start, fun habsent => Option.eq_none_iff_forall_ne_some.2 fun i hfind => ?_⟩
  obtain ⟨hstart, hfits, hat, -⟩ := bitFind_some s pat start i hfind
  exact habsent i hstart hfits hat

/-- Settles O42: both answers of `find`, each as an equivalence. -/
theorem findIsLeastIndex : Obligations.FindIsLeastIndex :=
  fun s pat start => ⟨bitFind_eq_some_iff s pat start, bitFind_eq_none_iff s pat start⟩

/-! Byte decode -/

/-- The values of the whole 8-bit groups of a bit string, by index (R201). -/
def groupValues (g : Bits) : List Byte :=
  (List.range (g.length / 8)).map fun j => val8 (bitSub g (8 * j) 8)

theorem groupValues_of_short {g : Bits} (h : g.length < 8) : groupValues g = [] := by
  rw [groupValues, Nat.div_eq_of_lt h]
  rfl

/-- One group in front is the first value; every later group stands 8 bits further on. -/
theorem groupValues_group_append {group : Bits} (h : group.length = 8) (rest : Bits) :
    groupValues (group ++ rest) = val8 group :: groupValues rest := by
  have hcount : (group ++ rest).length / 8 = rest.length / 8 + 1 := by
    rw [List.length_append]
    omega
  have hfirst : bitSub (group ++ rest) 0 8 = group := by
    simp [bitSub, ← h]
  have hlater (j : Nat) : bitSub (group ++ rest) (8 * (j + 1)) 8 = bitSub rest (8 * j) 8 := by
    rw [← bitSub_append_right group rest, h]
    congr 1
    omega
  simp only [groupValues, hcount, List.range_succ_eq_map, List.map_cons, List.map_map, Nat.mul_zero, hfirst,
    Function.comp_def, hlater]

theorem decodeBytes_of_short {g : Bits} (h : g.length < 8) : decodeBytes g = [] := by
  have hlen := (decodeBytes_text g).1
  exact List.eq_nil_of_length_eq_zero (by omega)

/-- One group in front is decoded on its own (R201). -/
theorem decodeBytes_group_append {group : Bits} (h : group.length = 8) (rest : Bits) :
    decodeBytes (group ++ rest) =
      if printable (val8 group) then val8 group :: decodeBytes rest else decodeBytes rest := by
  match group, h with
  | [_, _, _, _, _, _, _, _], _ => rfl

/-- DecodeBytes keeps the printable values of the whole groups, whatever bits follow the last of them. -/
theorem decodeBytes_eq_filter (g : Bits) : decodeBytes g = (groupValues g).filter printable := by
  induction hn : g.length / 8 generalizing g with
  | zero => rw [decodeBytes_of_short (by omega), groupValues_of_short (by omega), List.filter_nil]
  | succ n ih =>
    have hgroup : (g.take 8).length = 8 := by
      rw [List.length_take]
      omega
    have hrest : decodeBytes (g.drop 8) = (groupValues (g.drop 8)).filter printable := by
      refine ih _ ?_
      rw [List.length_drop]
      omega
    rw [← List.take_append_drop 8 g, decodeBytes_group_append hgroup, groupValues_group_append hgroup,
      List.filter_cons, hrest]

/-- NonBlank: some byte is outside WS, whose six values are written out (R202). -/
theorem nonBlank_iff (t : Text) :
    nonBlank t = true ↔
      ∃ v ∈ t, v ≠ 0x09 ∧ v ≠ 0x0A ∧ v ≠ 0x0B ∧ v ≠ 0x0C ∧ v ≠ 0x0D ∧ v ≠ 0x20 := by
  simp [nonBlank, Config.whitespace]

/-- Settles O43: DecodeBytes filters the groups' values by 1 .. 126; NonBlank tests for a byte outside WS. -/
theorem decodeBytesAndNonBlank : Obligations.DecodeBytesAndNonBlank :=
  ⟨fun g _ => decodeBytes_eq_filter g, nonBlank_iff⟩

/-! Frame search -/

/-- What the span between two markers must be, for a span that lies inside the buffer (R203). -/
theorem interiorText_bitSub_eq_some {buf : Bits} {i n : Nat} (h : i + n ≤ buf.length) (t : Text) :
    interiorText (bitSub buf i n) = some t ↔
      0 < n ∧ n % 8 = 0 ∧ t = decodeBytes (bitSub buf i n) ∧ nonBlank t = true := by
  rw [interiorText_eq_some, bitSub_length buf i n h, Nat.pos_iff_ne_zero]
  constructor
  · rintro ⟨hpos, hwhole, hblank, rfl⟩
    exact ⟨hpos, hwhole, rfl, hblank⟩
  · rintro ⟨hpos, hwhole, rfl, hblank⟩
    exact ⟨hpos, hwhole, hblank, rfl⟩

/-- Settles O44: the two markers are those of `frameSearch_eq_some`, and the end marker's place inside the buffer gives
the span its length. -/
theorem frameSearchFirstPair : Obligations.FrameSearchFirstPair := by
  intro buf t
  rw [frameSearch_eq_some]
  refine exists_congr fun s => exists_congr fun e => and_congr_right fun _ => and_congr_right fun hend => ?_
  obtain ⟨hafter, hfits, -⟩ := bitFind_some _ _ _ _ hend
  exact interiorText_bitSub_eq_some (by omega) t

/-! Live preview -/

/-- No start marker in the window: no preview (R205). -/
theorem previewText_of_no_marker (buf : Bits)
    (h : bitFind (bitLast buf Config.previewWin) Config.startMarker 0 = none) : previewText buf = none := by
  unfold previewText
  simp only [h]

/-- The preview is the text of the whole bytes after the window's first start marker (R205). -/
theorem previewText_of_marker (buf : Bits) (p : Nat)
    (h : bitFind (bitLast buf Config.previewWin) Config.startMarker 0 = some p) :
    previewText buf = some (decodeBytes (((bitLast buf Config.previewWin).drop (p + Config.markerLen)).take
      (8 * (((bitLast buf Config.previewWin).length - (p + Config.markerLen)) / 8)))) := by
  unfold previewText
  simp only [h, bitSub, List.drop_zero, List.length_drop]

/-- Settles O45: with and without a start marker in the window, which is `bitLast` of the last 200 bits. -/
theorem previewOfTrailingWindow : Obligations.PreviewOfTrailingWindow := by
  intro buf w
  exact ⟨previewText_of_no_marker buf, previewText_of_marker buf⟩

end Sys2Proof.Proofs.FrameDecoder

/-! PROOFS. The decoder and the encoder are inverse to each other (30_encoding.md section 3, section 4). -/

namespace Sys2Proof.Proofs.Codec

open Sys2Proof Sys2Proof.Machine

/-! Request words -/

theorem ofBit_code (mode : Mode) : Mode.ofBit (mode.code.getLsbD 0) = mode := by
  cases mode <;> rfl

/-- The fields of an M-port word built from fields (R98). -/
theorem mreq_fields (op : BitVec 3) (mode : BitVec 1) (n : BitVec 16) (t : BitVec 32) :
    (t ++ n ++ mode ++ op).extractLsb' 0 3 = op ∧ (t ++ n ++ mode ++ op).getLsbD 3 = mode.getLsbD 0 ∧
    (t ++ n ++ mode ++ op).extractLsb' 4 16 = n ∧ (t ++ n ++ mode ++ op).extractLsb' 20 32 = t := by
  refine ⟨?_, ?_, ?_, ?_⟩
  · rw [extract_append_low _ _ _ _ _ _ (by decide), extract_whole]
  · rw [getLsbD_eq_extract, extract_append_high _ _ _ _ _ _ (by decide), extract_append_low _ _ _ _ _ _ (by decide),
      extract_whole]
  · rw [extract_append_high _ _ _ _ _ _ (by decide), extract_append_high _ _ _ _ _ _ (by decide),
      extract_append_low _ _ _ _ _ _ (by decide), extract_whole]
  · rw [extract_append_high _ _ _ _ _ _ (by decide), extract_append_high _ _ _ _ _ _ (by decide),
      extract_append_high _ _ _ _ _ _ (by decide), extract_whole]

/-- The fields of a D-CFG word built from fields (R98). -/
theorem dcfg_fields (op : BitVec 3) (mode : BitVec 1) (sens : BitVec 7) (t : BitVec 32) (w : BitVec 99)
    (hw : w = (0 : BitVec 56) ++ t ++ sens ++ mode ++ op) :
    w.extractLsb' 0 3 = op ∧ w.getLsbD 3 = mode.getLsbD 0 ∧ w.extractLsb' 4 7 = sens ∧ w.extractLsb' 11 32 = t := by
  subst hw
  refine ⟨?_, ?_, ?_, ?_⟩
  · rw [extract_append_low _ _ _ _ _ _ (by decide), extract_whole]
  · rw [getLsbD_eq_extract, extract_append_high _ _ _ _ _ _ (by decide), extract_append_low _ _ _ _ _ _ (by decide),
      extract_whole]
  · rw [extract_append_high _ _ _ _ _ _ (by decide), extract_append_high _ _ _ _ _ _ (by decide),
      extract_append_low _ _ _ _ _ _ (by decide), extract_whole]
  · rw [extract_append_high _ _ _ _ _ _ (by decide), extract_append_high _ _ _ _ _ _ (by decide),
      extract_append_high _ _ _ _ _ _ (by decide), extract_append_low _ _ _ _ _ _ (by decide), extract_whole]

/-- The fields of a D-SMP word built from fields (R98). -/
theorem dsmp_fields (op : BitVec 3) (ts : BitVec 64) (a b : BitVec 16) :
    (ts ++ b ++ a ++ op).extractLsb' 0 3 = op ∧ (ts ++ b ++ a ++ op).extractLsb' 3 16 = a ∧
    (ts ++ b ++ a ++ op).extractLsb' 19 16 = b ∧ (ts ++ b ++ a ++ op).extractLsb' 35 64 = ts := by
  refine ⟨?_, ?_, ?_, ?_⟩
  · rw [extract_append_low _ _ _ _ _ _ (by decide), extract_whole]
  · rw [extract_append_high _ _ _ _ _ _ (by decide), extract_append_low _ _ _ _ _ _ (by decide), extract_whole]
  · rw [extract_append_high _ _ _ _ _ _ (by decide), extract_append_high _ _ _ _ _ _ (by decide),
      extract_append_low _ _ _ _ _ _ (by decide), extract_whole]
  · rw [extract_append_high _ _ _ _ _ _ (by decide), extract_append_high _ _ _ _ _ _ (by decide),
      extract_append_high _ _ _ _ _ _ (by decide), extract_whole]

/-- A reserved operation code is one of 4 to 7 (R108). -/
theorem reservedOp_iff (op : BitVec 3) : reservedOp op = true ↔ 4 ≤ op.toNat := by
  revert op
  decide

theorem decodeM_mreqWord_mStart (mode : Mode) (n : BitVec 16) (t : BitVec 32) :
    decodeM (t ++ n ++ mode.code ++ (1 : BitVec 3)) = .mStart mode n t := by
  obtain ⟨hop, hmode, hn, ht⟩ := mreq_fields 1 mode.code n t
  obtain ⟨-, start, -⟩ := Encoding.decodeM_op (t ++ n ++ mode.code ++ (1 : BitVec 3))
  rw [start hop, hmode, hn, ht, ofBit_code]

theorem decodeM_mreqWord_mReserved {op : BitVec 3} (h : reservedOp op = true) :
    decodeM ((0 : BitVec 32) ++ (0 : BitVec 16) ++ (0 : BitVec 1) ++ op) = .mReserved op := by
  obtain ⟨hop, -⟩ := mreq_fields op 0 0 0
  obtain ⟨-, -, -, -, reserved⟩ := Encoding.decodeM_op ((0 : BitVec 32) ++ (0 : BitVec 16) ++ (0 : BitVec 1) ++ op)
  rw [hop] at reserved
  exact reserved ((reservedOp_iff op).mp h)

theorem decodeD_dcfgWord_dStart (mode : Mode) (sens : BitVec 7) (t : BitVec 32) :
    decodeD ((0 : BitVec 56) ++ t ++ sens ++ mode.code ++ (1 : BitVec 3)) = .dStart mode sens t := by
  obtain ⟨hop, hmode, hsens, ht⟩ := dcfg_fields 1 mode.code sens t _ rfl
  obtain ⟨-, start, -⟩ := Encoding.decodeD_op ((0 : BitVec 56) ++ t ++ sens ++ mode.code ++ (1 : BitVec 3))
  rw [start hop, hmode, hsens, ht, ofBit_code]

theorem decodeD_dsmpWord_dSample (ts : BitVec 64) (a b : BitVec 16) :
    decodeD (ts ++ b ++ a ++ (2 : BitVec 3)) = .dSample ts a b := by
  obtain ⟨hop, ha, hb, hts⟩ := dsmp_fields 2 ts a b
  obtain ⟨-, -, sample, -⟩ := Encoding.decodeD_op (ts ++ b ++ a ++ (2 : BitVec 3))
  rw [sample hop, ha, hb, hts]

theorem decodeD_dcfgWord_dReserved {op : BitVec 3} (h : reservedOp op = true) :
    decodeD ((0 : BitVec 56) ++ (0 : BitVec 32) ++ (0 : BitVec 7) ++ (0 : BitVec 1) ++ op) = .dReserved op := by
  obtain ⟨hop, -⟩ := dcfg_fields op 0 0 0 _ rfl
  obtain ⟨-, -, -, -, reserved⟩ :=
    Encoding.decodeD_op ((0 : BitVec 56) ++ (0 : BitVec 32) ++ (0 : BitVec 7) ++ (0 : BitVec 1) ++ op)
  rw [hop] at reserved
  exact reserved ((reservedOp_iff op).mp h)

/-! Command words -/

/-- The five low bits of a command word: `cmd_last`, `cmd_state`, `cmd_valid` (R97). -/
def lowField (valid : Bool) (st : ChanState) (last : Bool) : BitVec 5 :=
  BitVec.ofBool last ++ st.code ++ BitVec.ofBool valid

theorem word_eq_append (c : Cmd) : c.word = c.dur ++ lowField c.valid c.state c.last := by
  simp only [Cmd.word, lowField, BitVec.append_assoc, BitVec.cast_eq]

theorem word_low (c : Cmd) : c.word.extractLsb' 0 5 = lowField c.valid c.state c.last := by
  rw [word_eq_append, extract_append_low _ _ _ _ _ _ (by decide), extract_whole]

theorem word_of_lowField {c : Cmd} {low : BitVec 5} (h : lowField c.valid c.state c.last = low) :
    c.word = c.dur ++ low := by
  rw [word_eq_append, h]

/-- A word is its duration and its five low bits. -/
theorem word_of_fields (w : BitVec 37) : w.extractLsb' 5 32 ++ w.extractLsb' 0 5 = w := by
  rw [BitVec.extractLsb'_append_extractLsb'_eq_extractLsb' (by decide), extract_whole]

/-- The row of a valid command by its five low bits (R97): six of them are a row, with any duration. -/
def rowOf (low : BitVec 5) (dur : BitVec 32) : Option Instr :=
  if low = 0x11#5 then some (.cmdIdle dur)
  else if low = 0x03#5 then some (.cmdLow dur)
  else if low = 0x05#5 then some (.cmdHigh dur)
  else if low = 0x07#5 then some (.cmdSyncGray dur)
  else if low = 0x0B#5 then some (.cmdTone600 dur)
  else if low = 0x0D#5 then some (.cmdTone1000 dur)
  else none

/-- A row is the encoding of the command it stands for. -/
theorem encode_rowOf {low : BitVec 5} {dur : BitVec 32} {i : Instr} (h : rowOf low dur = some i) :
    encode i = .cmd (dur ++ low) := by
  unfold rowOf at h
  split_ifs at h <;> cases h <;> subst low <;> refine congrArg PortWord.cmd (word_of_lowField ?_) <;>
    dsimp only [Cmd.frame] <;> decide

/-- A valid command word is decoded by its row. -/
theorem decodeCmd_of_valid {w : BitVec 37} (h : w.getLsbD 0 = true) :
    decodeCmd w = (rowOf (w.extractLsb' 0 5) (w.extractLsb' 5 32)).elim (.error .cmdNeverProduced) .ok := by
  have hne : w ≠ 0 := by
    rintro rfl
    simp at h
  simp only [decodeCmd, if_neg hne, h, Bool.true_eq_false, if_false, rowOf]
  split_ifs <;> rfl

/-- What a command word decodes to: the row of no command for the word 0, else the row of its five low bits. -/
theorem decodeCmd_eq_ok {w : BitVec 37} {i : Instr} (h : decodeCmd w = .ok i) :
    (w = 0 ∧ i = .cmdNone) ∨ rowOf (w.extractLsb' 0 5) (w.extractLsb' 5 32) = some i := by
  by_cases hzero : w = 0
  · subst hzero
    exact .inl ⟨rfl, by simpa [decodeCmd] using h.symm⟩
  · cases hvalid : w.getLsbD 0 with
    | false =>
      simp only [decodeCmd, if_neg hzero, if_pos hvalid] at h
      cases h
    | true =>
      rw [decodeCmd_of_valid hvalid] at h
      cases hrow : rowOf (w.extractLsb' 0 5) (w.extractLsb' 5 32) with
      | none => simp [hrow] at h
      | some j =>
        rw [hrow] at h
        cases h
        exact .inr rfl

/-- The word of a valid command decodes to the row of its state and last bit. -/
theorem decodeCmd_word {st : ChanState} {last : Bool} {dur : BitVec 32} {i : Instr}
    (h : rowOf (lowField true st last) dur = some i) : decodeCmd (Cmd.word ⟨true, st, last, dur⟩) = .ok i := by
  rw [decodeCmd_of_valid (Encoding.word_valid _), word_low, Encoding.word_dur, h]
  rfl

/-! The obligations -/

/-- Settles O1: request words field by field, command words by the row of their five low bits. -/
theorem decodeEncodeRoundTrip : Obligations.DecodeEncodeRoundTrip := by
  intro i hwf
  cases i with
  | mNop | mStep | mCancel | dNop | dStop | reset | cmdNone => decide
  | mStart mode n t => exact congrArg Except.ok (decodeM_mreqWord_mStart mode n t)
  | mReserved op => exact congrArg Except.ok (decodeM_mreqWord_mReserved hwf)
  | dStart mode sens t => exact congrArg Except.ok (decodeD_dcfgWord_dStart mode sens t)
  | dSample ts a b => exact congrArg Except.ok (decodeD_dsmpWord_dSample ts a b)
  | dReserved op => exact congrArg Except.ok (decodeD_dcfgWord_dReserved hwf)
  | cmdIdle dur | cmdLow dur | cmdHigh dur | cmdSyncGray dur | cmdTone600 dur | cmdTone1000 dur =>
    exact decodeCmd_word rfl

/-- The codes 0 to 3 aside, an operation code is reserved (R99, R100). -/
theorem reservedOp_of_ne {op : BitVec 3} (h0 : op ≠ 0) (h1 : op ≠ 1) (h2 : op ≠ 2) (h3 : op ≠ 3) :
    reservedOp op = true := by
  revert op
  decide

theorem decodeM_wf (w : BitVec 52) : (decodeM w).WellFormed := by
  simp only [decodeM]
  split_ifs with h0 h1 h2 h3
  case neg => exact reservedOp_of_ne h0 h1 h2 h3
  all_goals rfl

theorem decodeD_wf (w : BitVec 99) : (decodeD w).WellFormed := by
  simp only [decodeD]
  split_ifs with h0 h1 h2 h3
  case neg => exact reservedOp_of_ne h0 h1 h2 h3
  all_goals rfl

/-- The rows of a command are commands. -/
theorem isCmd_rowOf {low : BitVec 5} {dur : BitVec 32} {i : Instr} (h : rowOf low dur = some i) : i.isCmd = true := by
  unfold rowOf at h
  split_ifs at h <;> cases h <;> rfl

theorem isCmd_of_decodeCmd {w : BitVec 37} {i : Instr} (h : decodeCmd w = .ok i) : i.isCmd = true := by
  rcases decodeCmd_eq_ok h with ⟨-, rfl⟩ | hrow
  · rfl
  · exact isCmd_rowOf hrow

theorem wf_of_isCmd {i : Instr} (h : i.isCmd = true) : i.WellFormed := by
  cases i <;> first | rfl | cases h

/-- Settles O2: the request decoders, the reset input, and the rows of the commands. -/
theorem decodedOperationsWellFormed : Obligations.DecodedOperationsWellFormed := by
  intro p i h
  cases p with
  | mreq w => cases h; exact decodeM_wf w
  | dreq w => cases h; exact decodeD_wf w
  | rst w =>
    simp only [decode] at h
    split_ifs at h
    cases h
    rfl
  | cmd w => exact wf_of_isCmd (isCmd_of_decodeCmd h)

/-- Settles O3: the row encodes to the duration and the five low bits the word consists of. -/
theorem commandWordsDecodeUniquely : Obligations.CommandWordsDecodeUniquely := by
  intro w i h
  rcases decodeCmd_eq_ok h with ⟨rfl, rfl⟩ | hrow
  · decide
  · rw [encode_rowOf hrow, word_of_fields]

/-- A command of the M port stands in the opcode table: its word decodes to a command row (R96, R97). -/
theorem decode_word_of_answerable {c : Cmd} (h : c.answerable) :
    ∃ j, decode (.cmd c.word) = .ok j := by
  rcases h with rfl | ⟨hvalid, hlast, hstate⟩
  · exact ⟨.cmdIdle 0, by decide⟩
  · obtain ⟨valid, st, last, dur⟩ := c
    cases hvalid
    cases hlast
    simp only [List.mem_cons, List.not_mem_nil, or_false] at hstate
    rcases hstate with rfl | rfl | rfl | rfl | rfl <;> exact ⟨_, decodeCmd_word rfl⟩

/-- Settles O7: an M-port operation answers no command or an answerable one; what its word decodes to encodes back. -/
theorem mPortAnswersTableWords : Obligations.MPortAnswersTableWords := by
  intro i s s' hi hexec
  rw [exec_onM i s hi] at hexec
  cases hexec
  have hdecodes : ∃ j, decode (.cmd (s.mod.answer s.straps s.pay i).2.word) = .ok j := by
    rcases s.mod.answer_cmd s.straps s.pay i with hnone | hcmd
    · rw [hnone]
      exact ⟨.cmdNone, by decide⟩
    · exact decode_word_of_answerable hcmd
  obtain ⟨j, hj⟩ := hdecodes
  exact ⟨_, j, State.answerM_mRsp .., hj, isCmd_of_decodeCmd hj, commandWordsDecodeUniquely _ _ hj⟩

/-- Settles O4: the fourteen words, evaluated. -/
theorem specWordsDecode : Obligations.SpecWordsDecode := by
  refine ⟨?_, ?_, ?_, ?_, ?_, ?_, ?_, ?_, ?_, ?_, ?_, ?_, ?_, ?_⟩ <;> decide

end Sys2Proof.Proofs.Codec

/-! PROOFS. One step of the block: the event it takes, the operation it performs, what it refuses, RESET, the command
words and the register map (10_state.md R43, 20_memory.md R61, R70, 60_exceptions.md R230, R247 to R249,
70_reset_and_hazards.md R260). -/

namespace Sys2Proof.Proofs.Block

open Sys2Proof Sys2Proof.Machine

/-! What each event makes the step do -/

/-- The step on a word taken from a port. -/
theorem step_of_word {s t : State} {p : PortWord} {i : Instr} (hfetch : fetch s = .word p t) (hdec : decode p = .ok i) :
    step s = exec i t := by
  simp only [step, hfetch, hdec]

/-- The step on an event that is no operation of the block. -/
theorem step_of_outside {s t : State} (hfetch : fetch s = .outside t) : step s = .next t := by
  simp only [step, hfetch]

theorem fetch_of_rst {s : State} (h : s.rst = 1) : fetch s = .word (.rst s.rst) { s with rst := 0 } := if_pos h

theorem fetch_of_mreq {s : State} {w : BitVec 52} {rest : List Event} (hrst : s.rst ≠ 1)
    (hinbox : s.inbox = .mreq w :: rest) : fetch s = .word (.mreq w) { s with inbox := rest } := by
  simp only [fetch, if_neg hrst, hinbox]

theorem fetch_of_dreq {s : State} {w : BitVec 99} {rest : List Event} (hrst : s.rst ≠ 1)
    (hinbox : s.inbox = .dreq w :: rest) : fetch s = .word (.dreq w) { s with inbox := rest } := by
  simp only [fetch, if_neg hrst, hinbox]

theorem fetch_of_apply {s : State} {w : BitVec 37} {rest : List Event} (hrst : s.rst ≠ 1)
    (hinbox : s.inbox = .apply w :: rest) :
    fetch s = if s.mayApply w then .word (.cmd w) { s with inbox := rest } else .foreign := by
  simp only [fetch, if_neg hrst, hinbox]

/-- RESET is performed before anything that waits (R260, log 12). -/
theorem step_of_rst {s : State} (h : s.rst = 1) : step s = exec .reset { s with rst := 0 } := by
  refine step_of_word (fetch_of_rst h) ?_
  rw [h]
  rfl

theorem step_of_foreign {s : State} {w : BitVec 37} {rest : List Event} (hrst : s.rst ≠ 1)
    (hinbox : s.inbox = .apply w :: rest) (hmay : s.mayApply w = false) : step s = .refused .notAnswered := by
  have hfetch : fetch s = .foreign := by
    rw [fetch_of_apply hrst hinbox, hmay]
    rfl
  simp only [step, hfetch]

/-- Settles O10: the three kinds of event that carry a word. -/
theorem stepPerformsDecodedOperation : Obligations.StepPerformsDecodedOperation := by
  intro s i rest hrst _
  refine ⟨fun w hinbox hdec => step_of_word (fetch_of_mreq hrst hinbox) hdec,
    fun w hinbox hdec => step_of_word (fetch_of_dreq hrst hinbox) hdec, fun w hinbox hmay hdec => ?_⟩
  have hfetch := fetch_of_apply hrst hinbox
  rw [hmay] at hfetch
  exact step_of_word hfetch hdec

/-- Settles O11: with no event the fetch finds nothing. -/
theorem idleBlockHoldsState : Obligations.IdleBlockHoldsState := by
  intro s hrst hinbox
  simp only [step, fetch, if_neg hrst, hinbox]

/-- Settles O12: the event writes PAY once, in its canonical form. -/
theorem byteSourceWritesOneByte : Obligations.ByteSourceWritesOneByte := by
  intro s a v rest hrst hinbox hwf
  refine ⟨Memory.write s.pay a.toNat v, ?_, Memory.read_write_self s.pay a.toNat v hwf,
    fun j hj => Memory.read_write_of_ne s.pay a.toNat j v hj⟩
  simp only [step, fetch, if_neg hrst, hinbox]

/-- Settles O59: the event only raises the input, and the step after it performs RESET. -/
theorem resetAtAnyTime : Obligations.ResetAtAnyTime := by
  intro s rest hrst hinbox
  refine ⟨?_, step_of_rst rfl⟩
  simp only [step, fetch, if_neg hrst, hinbox]

/-! What a step refuses -/

/-- Settles O13: by port, each meaning is a next state. -/
theorem everyOperationCompletes : Obligations.EveryOperationCompletes := by
  intro i s
  rcases port_cases i with hM | hD | rfl | hC
  · exact ⟨_, exec_onM i s hM⟩
  · exact ⟨_, exec_onD i s hD⟩
  · exact ⟨_, rfl⟩
  · obtain ⟨act, hexec⟩ := exec_isCmd i s hC
    exact ⟨_, hexec⟩

/-- Every word the driver may apply decodes, when what it holds is a command the M port answers with (log 11,
log 19). -/
theorem decode_of_mayApply {s : State} {w : BitVec 37} (hhand : ∀ c ∈ s.hand, c.answerable)
    (hmay : s.mayApply w = true) : ∃ j, decode (.cmd w) = .ok j := by
  rcases (s.mayApply_iff w).mp hmay with rfl | rfl | ⟨c, hc, rfl⟩
  · exact ⟨.cmdNone, by decide⟩
  · exact Codec.decode_word_of_answerable (.inl rfl)
  · exact Codec.decode_word_of_answerable (hhand c hc)

/-- What a step refuses: a command word the driver may not apply, or one that is no operation (log 11, log 19). -/
def RefusesOnlyCommandWords (s : State) (r : Refusal) : Prop :=
  ∃ w rest, s.rst ≠ 1 ∧ s.inbox = .apply w :: rest ∧
    ((s.mayApply w = false ∧ r = .notAnswered) ∨
      (s.mayApply w = true ∧ ∃ e, decode (.cmd w) = .error e ∧ r = .notAnOperation e))

/-- Every step answers a next state, or refuses a command word. -/
theorem step_outcomes (s : State) :
    (∃ s', step s = .next s') ∨ (∃ r, step s = .refused r ∧ RefusesOnlyCommandWords s r) := by
  have performs {p : PortWord} {t : State} {i : Instr} (hfetch : fetch s = .word p t) (hdec : decode p = .ok i) :
      ∃ s', step s = .next s' := by
    rw [step_of_word hfetch hdec]
    exact everyOperationCompletes i t
  rcases fetch_cases s with ⟨hrst, e⟩ | ⟨-, -, e⟩ | ⟨w, rest, -, -, e⟩ | ⟨w, rest, -, -, e⟩ |
    ⟨w, rest, hrst, hinbox, hmay, e⟩ | ⟨w, rest, hrst, hinbox, hmay, e⟩ | ⟨rest, -, -, e⟩ | ⟨a, v, rest, -, -, e⟩
  · rw [hrst] at e
    exact .inl (performs e rfl)
  · exact .inl ⟨s, by simp only [step, e]⟩
  · exact .inl (performs e rfl)
  · exact .inl (performs e rfl)
  · cases hdec : decode (.cmd w) with
    | ok i => exact .inl (performs e hdec)
    | error why =>
      exact .inr ⟨.notAnOperation why, by simp only [step, e, hdec],
        w, rest, hrst, hinbox, .inr ⟨hmay, why, hdec, rfl⟩⟩
  · exact .inr ⟨.notAnswered, step_of_foreign hrst hinbox hmay, w, rest, hrst, hinbox, .inl ⟨hmay, rfl⟩⟩
  · exact .inl ⟨_, step_of_outside e⟩
  · exact .inl ⟨_, step_of_outside e⟩

/-- With an answerable command in the driver's hand, a word it may apply decodes. -/
theorem eq_notAnswered_of_refuses {s : State} {r : Refusal} (hhand : ∀ c ∈ s.hand, c.answerable)
    (h : RefusesOnlyCommandWords s r) : r = .notAnswered := by
  obtain ⟨w, rest, -, -, ⟨-, hr⟩ | ⟨hmay, e, herr, -⟩⟩ := h
  · exact hr
  · obtain ⟨j, hj⟩ := decode_of_mayApply hhand hmay
    rw [herr] at hj
    cases hj

/-- Settles O14: safety and the two refusals from the outcomes of a step. -/
theorem onlyForeignCommandWordsRefused : Obligations.OnlyForeignCommandWordsRefused := by
  intro s
  rcases step_outcomes s with ⟨s', hstep⟩ | ⟨r', hstep, hrefuses⟩
  · simp [SafeStep, hstep]
  · have hfrom := hrefuses
    obtain ⟨w, rest, hrst, hinbox, hwhy⟩ := hrefuses
    refine ⟨?_, fun r hr => ?_⟩
    · simp only [SafeStep, hstep]
      exact hwhy.imp And.right fun ⟨_, e, _, hr⟩ => ⟨e, hr⟩
    · rw [hstep] at hr
      cases hr
      exact ⟨w, rest, hrst, hinbox, hwhy, fun hinv => eq_notAnswered_of_refuses hinv.hand hfrom⟩

/-! What an operation leaves alone -/

theorem onM_exclusive {i : Instr} (h : i.onM = true) : i.onD = false ∧ i.isCmd = false ∧ i ≠ .reset := by
  cases i <;> simp [Instr.onM, Instr.onD, Instr.isCmd] at h ⊢

theorem onD_exclusive {i : Instr} (h : i.onD = true) : i.onM = false ∧ i.isCmd = false ∧ i ≠ .reset := by
  cases i <;> simp [Instr.onM, Instr.onD, Instr.isCmd] at h ⊢

theorem isCmd_exclusive {i : Instr} (h : i.isCmd = true) : i.onM = false ∧ i.onD = false ∧ i ≠ .reset := by
  cases i <;> simp [Instr.onM, Instr.onD, Instr.isCmd] at h ⊢

/-- Settles O53: by port, each operation writes its own agent and its response, RESET both, a command word the
actuator. -/
theorem operationsChangeOnlyTheirPort : Obligations.OperationsChangeOnlyTheirPort := by
  intro i s s' hexec
  rcases port_cases i with hM | hD | rfl | hC
  · obtain ⟨hnD, hnC, hnR⟩ := onM_exclusive hM
    rw [exec_onM i s hM] at hexec
    cases hexec
    simp [hnD, hnC, hnR]
  · obtain ⟨hnM, hnC, hnR⟩ := onD_exclusive hD
    rw [exec_onD i s hD] at hexec
    cases hexec
    simp [hnM, hnC, hnR]
  · cases hexec
    simp [Instr.onM, Instr.onD, Instr.isCmd]
  · obtain ⟨hnM, hnD, hnR⟩ := isCmd_exclusive hC
    obtain ⟨act, hact⟩ := exec_isCmd i s hC
    rw [hact] at hexec
    cases hexec
    simp [hnM, hnD, hnR]

/-! RESET, the command words, the register map -/

/-- Settles O55: RESET comes first, clears both agents, and leaves the actuator. -/
theorem resetResult : Obligations.ResetResult := by
  refine ⟨fun s => step_of_rst, fun s => ⟨_, rfl, ?_, rfl, rfl, rfl⟩, ?_⟩ <;>
    exact ⟨rfl, rfl, rfl, rfl, rfl, rfl, rfl, rfl, rfl, rfl, rfl, rfl, rfl, rfl, rfl, rfl⟩

/-- Settles O57: each word writes the actuator's hold. -/
theorem commandWordsApplied : Obligations.CommandWordsApplied :=
  fun _ _ => ⟨rfl, rfl, rfl, rfl, rfl, rfl, rfl⟩

theorem dfsm_code_toNat (f : DFsm) : f.code.toNat = match f with
    | .idle => 0 | .armed => 1 | .accumulating => 2 | .complete => 3 | .stopped => 4 := by
  cases f <;> rfl

theorem mfsm_code_toNat (f : MFsm) : f.code.toNat = match f with
    | .idle => 0 | .run => 1 | .done => 2 | .cancelled => 3 := by
  cases f <;> rfl

theorem mode_code_toNat (m : Mode) : m.code.toNat = if m = .tone then 1 else 0 := by
  cases m <;> rfl

theorem levelCode_toNat (l : Option Lvl) : (levelCode l).toNat = match l with
    | none => 0 | some .low => 1 | some .high => 2 := by
  rcases l with _ | _ | _ <;> rfl

theorem freqCode_toNat (f : Option Band) : (freqCode f).toNat = match f with
    | none => 0 | some .f600 => 1 | some .f1000 => 2 := by
  rcases f with _ | _ | _ <;> rfl

theorem bool_toNat_eq (b : Bool) : b.toNat = if b = true then 1 else 0 := by
  cases b <;> rfl

/-- The numbers R43 leaves unused. -/
theorem debugRead_unused (s : State) {i : Nat} (h : (13 ≤ i ∧ i ≤ 15) ∨ 23 ≤ i) : debugRead s i = .word 0 := by
  rcases h with ⟨hlo, hhi⟩ | h
  · interval_cases i <;> rfl
  · obtain ⟨j, rfl⟩ := Nat.exists_eq_add_of_le' h
    rfl

/-- Settles O58: the registers that are read as they are, the codes of the others, and the unused numbers. -/
theorem debugReadsRegisterMap : Obligations.DebugReadsRegisterMap := by
  intro s
  exact ⟨congrArg _ (dfsm_code_toNat _), congrArg _ (mode_code_toNat _), rfl, rfl, congrArg _ (levelCode_toNat _),
    congrArg _ (freqCode_toNat _), rfl, rfl, rfl, rfl, rfl, rfl, congrArg _ (bool_toNat_eq _),
    congrArg _ (mfsm_code_toNat _), congrArg _ (mode_code_toNat _), rfl, rfl, rfl, congrArg _ (bool_toNat_eq _),
    congrArg _ (bool_toNat_eq _), fun i => debugRead_unused s⟩

end Sys2Proof.Proofs.Block

/-! PROOFS. Runs of operations: performing a list one operation after another, and the M port's responses (R70). -/

namespace Sys2Proof.Proofs.Run

open Sys2Proof Sys2Proof.Machine

theorem execAll_nil (s : State) : execAll [] s = .next s := rfl

theorem execAll_cons {i : Instr} {s t : State} (h : exec i s = .next t) (is : List Instr) :
    execAll (i :: is) s = execAll is t := by
  simp only [execAll, h]

theorem execAll_append {is js : List Instr} {s t : State} (h : execAll is s = .next t) :
    execAll (is ++ js) s = execAll js t := by
  induction is generalizing s with
  | nil =>
    cases h
    rfl
  | cons i is ih =>
    obtain ⟨u, hu⟩ := Block.everyOperationCompletes i s
    rw [execAll_cons hu] at h
    rw [List.cons_append, execAll_cons hu, ih h]

theorem responsesM_cons {i : Instr} {s t : State} (h : exec i s = .next t) (is : List Instr) :
    responsesM (i :: is) s = t.mRsp :: responsesM is t := by
  simp only [responsesM, h]

/-- A command the actuator gets, when it is a valid one (R97). -/
def validOnly (c : Cmd) : Option Cmd := if c.valid then some c else none

theorem received_eq (hand : Option Cmd) (c : Cmd) : received hand c = (validOnly c).or hand := by
  unfold received validOnly
  split_ifs <;> rfl

theorem lastCommand_nil : lastCommand [] = none := rfl

/-- The last command of a run is that of the rest, or the first response's when the rest has none. -/
theorem lastCommand_cons (r : MRsp) (rs : List (Option MRsp)) :
    lastCommand (some r :: rs) = (lastCommand rs).or (validOnly r.cmd) := by
  unfold lastCommand validOnly
  simp only [List.filterMap_cons, id, List.map_cons, List.filter_cons]
  split_ifs
  · rw [List.getLast?_cons]
    cases List.getLast? _ <;> rfl
  · simp

/-- An M-port operation in front of a run: the state it leaves and the command it adds. -/
theorem execAll_cons_onM {i : Instr} {is : List Instr} {s s' : State} (hi : i.onM = true)
    (h : execAll (i :: is) s = .next s') : execAll is (s.answerM (s.mod.answer s.straps s.pay i)) = .next s' := by
  rwa [execAll_cons (exec_onM i s hi)] at h

theorem lastCommand_cons_onM {i : Instr} (is : List Instr) (s : State) (hi : i.onM = true) :
    lastCommand (responsesM (i :: is) s) =
      (lastCommand (responsesM is (s.answerM (s.mod.answer s.straps s.pay i)))).or
        (validOnly (s.mod.answer s.straps s.pay i).2) := by
  rw [responsesM_cons (exec_onM i s hi), State.answerM_mRsp, lastCommand_cons, MRsp.of_cmd]

end Sys2Proof.Proofs.Run

/-! PROOFS. The sequencer: M_START and M_STEP in all their cases, a whole sequence, and the commands the actuator and
the driver are left with (40_modulator.md R130 to R138, 70_reset_and_hazards.md R288, 60_exceptions.md R249). -/

namespace Sys2Proof.Proofs.Sequence

open Sys2Proof Sys2Proof.Machine

/-! The cases of M_START and M_STEP -/

/-- An answer with a valid command puts it into the driver's hand (R97, log 19). -/
theorem answerM_valid (s : State) (m : Machine.Modulator) {c : Cmd} (h : c.valid = true) :
    s.answerM (m, c) = { s with mod := m, mRsp := some ⟨c, m.fsm, m.err⟩, hand := some c } := by
  simp [State.answerM, MRsp.of, received, h]

theorem tearDown_of_run {m : Machine.Modulator} (h : m.fsm = .run) :
    m.tearDown = ({ m with fsm := .cancelled, cancel := false }, Cmd.closing) := if_pos h

theorem tearDown_of_ne_run {m : Machine.Modulator} (h : m.fsm ≠ .run) : m.tearDown = (m, Cmd.none) := if_neg h

theorem start_of_bad {pm : Nat} {mode : Mode} {n : BitVec 16} {t : BitVec 32} (h : badModStart pm mode n t = true)
    (pay : Memory) (m : Machine.Modulator) :
    m.start pm pay mode n t = (m.tearDown.1.raiseBadStart, m.tearDown.2) := if_pos h

theorem step_of_ne_run {m : Machine.Modulator} (h : m.fsm ≠ .run) : m.step = (m, Cmd.none) := if_neg h

theorem step_of_cancel {m : Machine.Modulator} (hrun : m.fsm = .run) (hcancel : m.cancel = true) :
    m.step = ({ m with cancel := false, fsm := .cancelled }, Cmd.closing) := by
  simp only [Machine.Modulator.step, if_pos hrun, if_pos hcancel]

theorem step_of_end {m : Machine.Modulator} (hrun : m.fsm = .run) (hcancel : m.cancel = false)
    (hend : m.k.toNat = m.total) : m.step = ({ m with fsm := .done }, Cmd.closing) := by
  simp [Machine.Modulator.step, hrun, hcancel, hend]

theorem step_of_emission {m : Machine.Modulator} (hrun : m.fsm = .run) (hcancel : m.cancel = false)
    (hend : m.k.toNat ≠ m.total) : m.step = ({ m with k := m.k + 1 }, frameCmd m.mode m.frame m.dur m.k.toNat) := by
  simp [Machine.Modulator.step, hrun, hcancel, hend]

theorem total_eq (m : Machine.Modulator) :
    m.total = if m.mode = .level then 2 * m.len.toNat else m.len.toNat := by
  unfold Machine.Modulator.total
  cases m.mode <;> rfl

/-- The refusing operands with the bounds of R134 as numbers. -/
theorem badModStart_iff (pm : Nat) (mode : Mode) (n : BitVec 16) (t : BitVec 32) :
    badModStart pm mode n t = true ↔ n.toNat = 0 ∨ pm < n.toNat ∨ t.toNat = 0 ∨
      t.toNat < (if mode = .level then 50 else 100) ∨ (if mode = .level then 500 else 1000) < t.toNat := by
  rw [badModStart_eq_true, Session.bitdurMin_eq, Session.bitdurMax_eq]

/-- A loaded sequence holds nothing of the one before it (R134). -/
theorem load_eq (m : Machine.Modulator) (mode : Mode) (t : BitVec 32) (p : List Byte) :
    m.load mode t p = ⟨.run, mode, t, frameOf p, BitVec.ofNat 16 (16 + 8 * p.length), 0, false, false⟩ := rfl

/-- Settles O16: validation chooses between refusing and loading, after the tear-down in its two cases. -/
theorem mStartResult : Obligations.MStartResult := by
  intro mode n t s out fsm lo hi refused hand
  have hbad : badModStart s.straps.payloadMax.val mode n t = true ↔ refused := badModStart_iff ..
  rw [exec_mStart]
  refine ⟨fun hr => ?_, fun hr => ?_⟩
  · rw [start_of_bad (hbad.mpr hr)]
    by_cases hrun : s.mod.fsm = .run
    · rw [tearDown_of_run hrun, answerM_valid _ _ rfl]
      simp [Machine.Modulator.raiseBadStart, Cmd.closing, out, fsm, hand, hrun]
    · rw [tearDown_of_ne_run hrun, Modulator.answerM_none]
      simp [Machine.Modulator.raiseBadStart, out, fsm, hand, hrun]
  · rw [Modulator.start_of_good (by simpa using mt hbad.mp hr), load_eq, payload_length]
    by_cases hrun : s.mod.fsm = .run
    · rw [tearDown_of_run hrun, answerM_valid _ _ rfl]
      simp [Cmd.closing, out, hand, hrun]
    · rw [tearDown_of_ne_run hrun, Modulator.answerM_none]
      simp [out, hand, hrun]

/-- Settles O17: the four cases of R135. -/
theorem mStepResult : Obligations.MStepResult := by
  intro s total
  have htotal : s.mod.total = total := total_eq s.mod
  rw [exec_mStep]
  refine ⟨fun hidle => ?_, fun hrun hcancel => ?_, fun hrun hcancel hend => ?_, fun hrun hcancel hmore => ?_⟩
  · rw [step_of_ne_run hidle, Modulator.answerM_none]
  · rw [step_of_cancel hrun hcancel, answerM_valid _ _ rfl]
    rfl
  · rw [step_of_end hrun hcancel (hend.trans htotal.symm), answerM_valid _ _ rfl]
    rfl
  · rw [step_of_emission hrun hcancel (htotal ▸ hmore), answerM_valid _ _ (frameCmd_valid ..).1, ← hrun]

/-! A whole sequence -/

/-- m_k advances without wrapping while there is room above it (R38). -/
theorem k_succ_toNat {k : BitVec 16} (h : k.toNat + 1 < 2 ^ 16) : (k + 1).toNat = k.toNat + 1 := by
  rw [BitVec.toNat_add]
  exact Nat.mod_eq_of_lt h

/-- `j` commands before its end, a running sequence answers those commands, the closing one, and no command (R135). -/
theorem responsesM_to_end (j : Nat) (s : State) (hrun : s.mod.fsm = .run) (hcancel : s.mod.cancel = false)
    (herr : s.mod.err = false) (hleft : s.mod.k.toNat + j = s.mod.total) (hfits : s.mod.total < 2 ^ 16) :
    responsesM (List.replicate (j + 2) .mStep) s =
      (List.range' s.mod.k.toNat j).map (fun k => some ⟨frameCmd s.mod.mode s.mod.frame s.mod.dur k, .run, false⟩) ++
        [some ⟨⟨true, .idle, true, 0⟩, .done, false⟩, some ⟨⟨false, .idle, false, 0⟩, .done, false⟩] := by
  induction j generalizing s with
  | zero =>
    have hclosing := exec_mStep s
    rw [step_of_end hrun hcancel hleft] at hclosing
    have hafter := exec_mStep (s.answerM ({ s.mod with fsm := .done }, Cmd.closing))
    rw [step_of_ne_run (by simp)] at hafter
    rw [List.replicate_succ, Run.responsesM_cons hclosing, List.replicate_succ, Run.responsesM_cons hafter]
    simp [responsesM, MRsp.of, herr, Cmd.closing, Cmd.none]
  | succ j ih =>
    have hemits := exec_mStep s
    rw [step_of_emission hrun hcancel (by omega)] at hemits
    have hnext := k_succ_toNat (k := s.mod.k) (by omega)
    have hrest := ih (s.answerM ({ s.mod with k := s.mod.k + 1 }, frameCmd s.mod.mode s.mod.frame s.mod.dur
      s.mod.k.toNat)) hrun hcancel herr (by
        show (s.mod.k + 1).toNat + j = s.mod.total
        omega) hfits
    rw [List.replicate_succ, Run.responsesM_cons hemits, hrest, List.range'_succ, ← hnext]
    simp [MRsp.of, hrun, herr]

/-- What an M_START that is not refused has for operands (R134). -/
theorem operands_of_good {pm : Nat} {mode : Mode} {n : BitVec 16} {t : BitVec 32}
    (h : badModStart pm mode n t = false) : n.toNat ≠ 0 ∧ n.toNat ≤ pm ∧ durOutOfRange mode t = false := by
  simp only [badModStart, Bool.or_eq_false_iff, decide_eq_false_iff_not, not_lt, gt_iff_lt] at h
  obtain ⟨⟨⟨hpos, hmax⟩, -⟩, hdur⟩ := h
  exact ⟨hpos, hmax, hdur⟩

/-- The length of the longest frame fits m_L (R37, D31). -/
theorem frameLen_toNat {n : Nat} (h : n ≤ 4093) : (BitVec.ofNat 16 (16 + 8 * n)).toNat = 16 + 8 * n := by
  rw [BitVec.toNat_ofNat]
  exact Nat.mod_eq_of_lt (by omega)

/-- Settles O22: a performed start leaves the whole sequence before its end, and its length fits m_k. -/
theorem modulateEmitsWholeFrame : Obligations.ModulateEmitsWholeFrame := by
  intro mode n t s s1 hgood hexec f total
  obtain ⟨-, hmax, -⟩ := operands_of_good hgood
  have hn : n.toNat ≤ 4093 := hmax.trans (Nat.lt_succ_iff.mp s.straps.payloadMax.isLt)
  have hflen : f.length = 16 + 8 * n.toNat := by rw [frameOf_length, payload_length]
  rw [exec_mStart, Modulator.start_of_good hgood, load_eq, payload_length] at hexec
  cases hexec
  have htotal : (s.answerM (⟨.run, mode, t, f, BitVec.ofNat 16 (16 + 8 * n.toNat), 0, false, false⟩,
      s.mod.tearDown.2)).mod.total = total := by
    rw [State.answerM_mod, total_eq, frameLen_toNat hn, ← hflen]
  have htotal_lt : total < 2 ^ 16 := by
    simp only [total]
    split_ifs <;> omega
  rw [responsesM_to_end total _ rfl rfl rfl (by rw [htotal]; simp) (by rw [htotal]; exact htotal_lt),
    List.range_eq_range']
  rfl

/-! What the actuator and the driver are left with -/

/-- An M-port operation answers no command and lets a running sequence run, or answers the closing command, or answers
from a running sequence that runs on (R134 to R137). -/
theorem answer_outcomes (straps : Config.Straps) (pay : Memory) (m : Machine.Modulator) (i : Instr) :
    ((m.answer straps pay i).2 = Cmd.none ∧ (m.fsm = .run → (m.answer straps pay i).1.fsm = .run)) ∨
    (m.answer straps pay i).2 = Cmd.closing ∨
    (m.fsm = .run ∧ (m.answer straps pay i).1.fsm = .run) := by
  cases i with
  | mStart mode n t =>
    rcases m.tearDown_cases with ⟨hidle, e⟩ | ⟨hrun, e⟩
    · refine .inl ⟨?_, fun hrun => absurd hrun hidle⟩
      rcases m.start_cases straps.payloadMax.val pay mode n t with ⟨-, h⟩ | ⟨-, h⟩ <;>
        simp only [Machine.Modulator.answer, h, e]
    · refine .inr (.inl ?_)
      rcases m.start_cases straps.payloadMax.val pay mode n t with ⟨-, h⟩ | ⟨-, h⟩ <;>
        simp only [Machine.Modulator.answer, h, e]
  | mStep =>
    rcases m.step_cases with ⟨hidle, e⟩ | ⟨-, -, e⟩ | ⟨-, -, -, e⟩ | ⟨hrun, -, -, e⟩ <;>
      simp only [Machine.Modulator.answer, e]
    · exact .inl ⟨trivial, id⟩
    · exact .inr (.inl trivial)
    · exact .inr (.inl trivial)
    · exact .inr (.inr ⟨hrun, hrun⟩)
  | mCancel =>
    refine .inl ⟨rfl, fun hrun => ?_⟩
    simp only [Machine.Modulator.answer, Modulator.requestCancel_of_run hrun, hrun]
  | _ => exact .inl ⟨rfl, id⟩

/-- After M-port operations that leave M_RUN, the last command was the closing one, unless the sequencer did not run at
the start and no command was answered (R288). -/
theorem lastCommand_of_ne_run (ops : List Instr) (s s' : State) (hM : ∀ i ∈ ops, i.onM = true)
    (hexec : execAll ops s = .next s') (hout : s'.mod.fsm ≠ .run) :
    lastCommand (responsesM ops s) = some Cmd.closing ∨
    (s.mod.fsm ≠ .run ∧ lastCommand (responsesM ops s) = none) := by
  induction ops generalizing s with
  | nil =>
    cases hexec
    exact .inr ⟨hout, rfl⟩
  | cons i is ih =>
    obtain ⟨hi, his⟩ := List.forall_mem_cons.mp hM
    rw [Run.lastCommand_cons_onM is s hi]
    rcases ih _ his (Run.execAll_cons_onM hi hexec) with hlast | ⟨hidle, hnone⟩
    · rw [hlast]
      exact .inl rfl
    · rw [hnone, Option.none_or]
      rcases answer_outcomes s.straps s.pay s.mod i with ⟨hcmd, hruns⟩ | hcmd | ⟨-, hruns⟩
      · rw [hcmd]
        exact .inr ⟨mt hruns hidle, rfl⟩
      · rw [hcmd]
        exact .inl rfl
      · exact absurd hruns hidle

/-- Settles O23: the run, and the outcomes of one operation. -/
theorem actuatorLeftIdle : Obligations.ActuatorLeftIdle := by
  refine ⟨lastCommand_of_ne_run, fun i s s' hi hexec => ?_⟩
  rw [exec_onM i s hi] at hexec
  cases hexec
  refine ⟨_, State.answerM_mRsp .., fun hvalid hlast => ?_⟩
  rw [MRsp.of_cmd] at hvalid hlast
  rcases answer_outcomes s.straps s.pay s.mod i with ⟨hcmd, -⟩ | hcmd | hruns
  · rw [hcmd] at hvalid
    cases hvalid
  · rw [hcmd] at hlast
    cases hlast
  · exact hruns

/-- After M-port operations the driver holds their last command, or what it held before (log 19). -/
theorem hand_of_execAll (ops : List Instr) (s s' : State) (hM : ∀ i ∈ ops, i.onM = true)
    (hexec : execAll ops s = .next s') : s'.hand = (lastCommand (responsesM ops s)).or s.hand := by
  induction ops generalizing s with
  | nil =>
    cases hexec
    rfl
  | cons i is ih =>
    obtain ⟨hi, his⟩ := List.forall_mem_cons.mp hM
    rw [ih _ his (Run.execAll_cons_onM hi hexec), Run.lastCommand_cons_onM is s hi, State.answerM_hand,
      Run.received_eq, Option.or_assoc]

/-- Settles O60: the words with the two fixed commands as numbers, the hand after a run, and the refusal. -/
theorem driverAppliesLastAnsweredCommand : Obligations.DriverAppliesLastAnsweredCommand := by
  have hnone : Cmd.none.word = 0 := by decide
  have hclosing : Cmd.closing.word = 0x11#37 := by decide
  refine ⟨fun s w => ?_, hand_of_execAll, fun s w rest => Block.step_of_foreign⟩
  rw [s.mayApply_iff, hnone, hclosing]

end Sys2Proof.Proofs.Sequence

/-! PROOFS. D_SAMPLE as a whole: what it can leave and answer, the session's transitions, the counter, the debounce and
the fields of DRSP (41_demod_session.md R153, 42_demod_sample.md R170 to R180, 30_encoding.md R101). -/

namespace Sys2Proof.Proofs.Outcome

open Sys2Proof Sys2Proof.Machine

/-! What D_SAMPLE can leave and answer -/

/-- Stages 3 to 6 (R170): no bit; or a bit accumulated, and then a frame found, a preview shown, or nothing. -/
theorem bitStage_outcomes (d : Demod) :
    (extractBit d.mode d.hist = none ∧ d.bitStage = (d, .pending)) ∨
    (∃ b, extractBit d.mode d.hist = some b ∧
      ((∃ t, frameSearch (bufAppend d.buf b) = some t ∧
          d.bitStage = ({ d.accumulate b with final := t, fsm := .complete }, .complete t)) ∨
       (∃ p, previewText (bufAppend d.buf b) = some p ∧ p ≠ d.preview ∧
          d.bitStage = ({ d.accumulate b with preview := p }, .partialText p)) ∨
       d.bitStage = (d.accumulate b, .pending))) := by
  rcases d.bitStage_cases with hnone | ⟨b, hbit, e⟩
  · exact .inl hnone
  · refine .inr ⟨b, hbit, ?_⟩
    rw [e]
    rcases (d.accumulate b).searchStage_cases with ⟨t, -, hfound, h⟩ | ⟨-, h⟩ <;> rw [h]
    · exact .inl ⟨t, hfound, rfl⟩
    · rcases (d.accumulate b).previewStage_cases with ⟨p, -, hp, hnew, h⟩ | ⟨-, h⟩ <;> rw [h]
      · exact .inr (.inl ⟨p, hp, hnew, rfl⟩)
      · exact .inr (.inr rfl)

/-- A sample that is an accepted transition is handed to stages 3 to 6 with the transition recorded (R175, R176). -/
theorem sample_of_accepts {d : Demod} {tie : Band} {ts : BitVec 64} {a b : BitVec 16}
    (hfsm : d.fsm = .armed ∨ d.fsm = .accumulating) (h : d.accepts tie ts a b) :
    ∃ l, d.level = some l ∧ (binarize tie d.mode d.sens a b).1 ≠ l ∧ d.tstart.toNat + debounce d.mode ≤ ts.toNat ∧
      d.sample tie ts a b = (Sample.afterTransition d l (binarize tie d.mode d.sens a b) ts).bitStage := by
  obtain ⟨l, hlevel, hne, hle⟩ := h
  exact ⟨l, hlevel, hne, hle, Sample.sample_of_accepted hfsm hlevel hne (Sample.debounce_eq d.mode ▸ hle)⟩

/-- A sample of a session that is no accepted transition primes the session, or changes nothing (R174, R175). -/
theorem sample_of_not_accepts {d : Demod} {tie : Band} {ts : BitVec 64} {a b : BitVec 16}
    (hfsm : d.fsm = .armed ∨ d.fsm = .accumulating) (h : ¬ d.accepts tie ts a b) :
    (d.level = none ∧ d.sample tie ts a b =
      (d.begin (binarize tie d.mode d.sens a b).1 (binarize tie d.mode d.sens a b).2 ts, .pending)) ∨
    (d.level ≠ none ∧ d.sample tie ts a b = (d, .pending)) := by
  rw [Sample.sample_of_receiving hfsm]
  cases hlevel : d.level with
  | none => exact .inl ⟨rfl, Sample.senseStage_of_no_level hlevel ..⟩
  | some l =>
    refine .inr ⟨nofun, ?_⟩
    rw [Sample.senseStage_of_level hlevel, if_pos]
    by_contra hacc
    obtain ⟨hne, hlt⟩ := not_or.mp hacc
    rw [← Sample.debounce_eq] at hlt
    exact h ⟨l, hlevel, hne, not_lt.mp hlt⟩

/-- A sample outside a session, or of a completed one, changes no register (R170). -/
theorem sample_of_not_receiving {d : Demod} (h : d.fsm = .idle ∨ d.fsm = .stopped ∨ d.fsm = .complete) (tie : Band)
    (ts : BitVec 64) (a b : BitVec 16) :
    d.sample tie ts a b = (d, if d.fsm = .complete then .complete d.final else .pending) := by
  rcases h with h | h | h <;> simp [Demod.sample, h]

theorem receiving_or_not (d : Demod) :
    (d.fsm = .armed ∨ d.fsm = .accumulating) ∨ (d.fsm = .idle ∨ d.fsm = .stopped ∨ d.fsm = .complete) := by
  cases d.fsm <;> simp

/-- All a D_SAMPLE can do to the registers: nothing, prime the session, or accept a transition (R170). -/
theorem sample_outcomes (d : Demod) (tie : Band) (ts : BitVec 64) (a b : BitVec 16) :
    (d.sample tie ts a b = (d, if d.fsm = .complete then .complete d.final else .pending)) ∨
    ((d.fsm = .armed ∨ d.fsm = .accumulating) ∧ d.level = none ∧ d.sample tie ts a b =
      (d.begin (binarize tie d.mode d.sens a b).1 (binarize tie d.mode d.sens a b).2 ts, .pending)) ∨
    (∃ l, (d.fsm = .armed ∨ d.fsm = .accumulating) ∧ d.level = some l ∧ (binarize tie d.mode d.sens a b).1 ≠ l ∧
      d.tstart.toNat + debounce d.mode ≤ ts.toNat ∧
      d.sample tie ts a b = (Sample.afterTransition d l (binarize tie d.mode d.sens a b) ts).bitStage) := by
  rcases receiving_or_not d with hfsm | hfsm
  · by_cases hacc : d.accepts tie ts a b
    · obtain ⟨l, hlevel, hne, hle, e⟩ := sample_of_accepts hfsm hacc
      exact .inr (.inr ⟨l, hfsm, hlevel, hne, hle, e⟩)
    · rcases sample_of_not_accepts hfsm hacc with ⟨hlevel, e⟩ | ⟨-, e⟩
      · exact .inr (.inl ⟨hfsm, hlevel, e⟩)
      · refine .inl ?_
        rw [e]
        rcases hfsm with h | h <;> simp [h]
  · exact .inl (sample_of_not_receiving hfsm tie ts a b)

/-- Settles O30: the three states in which D_SAMPLE changes nothing. -/
theorem sampleOutsideDecoding : Obligations.SampleOutsideDecoding := by
  intro ts a b s
  rw [exec_dSample]
  refine ⟨fun hfsm => ?_, fun hfsm => ?_⟩
  · rw [sample_of_not_receiving (by tauto), if_neg (by rcases hfsm with h | h <;> simp [h])]
    rfl
  · rw [sample_of_not_receiving (.inr (.inr hfsm)), if_pos hfsm]
    rfl

/-- Settles O33: the accepted sample's transition is recorded, and stage 3 finds no bit in it. -/
theorem acceptedWithoutBit : Obligations.AcceptedWithoutBit := by
  intro ts a b l s hfsm hlevel bin hne hle hist began hnone
  rw [exec_dSample, Sample.sample_of_accepted hfsm hlevel hne hle]
  rcases (Sample.afterTransition s.dem l bin ts).bitStage_cases with ⟨-, e⟩ | ⟨bit, hbit, -⟩
  · rw [e]
    rfl
  · cases hnone.symm.trans hbit

/-! The counter and the debounce -/

/-- BUF and d_count change together, by one bit (R179), or not at all. -/
theorem sample_buf_count (d : Demod) (tie : Band) (ts : BitVec 64) (a b : BitVec 16) :
    ((d.sample tie ts a b).1.count = d.count ∧ (d.sample tie ts a b).1.buf = d.buf) ∨
    (∃ bit, (d.sample tie ts a b).1.buf = bufAppend d.buf bit ∧ (d.sample tie ts a b).1.count = satInc d.count) := by
  rcases sample_outcomes d tie ts a b with e | ⟨-, -, e⟩ | ⟨l, -, -, -, -, e⟩ <;> rw [e]
  · exact .inl ⟨rfl, rfl⟩
  · exact .inl ⟨rfl, rfl⟩
  · rcases bitStage_outcomes (Sample.afterTransition d l (binarize tie d.mode d.sens a b) ts) with
      ⟨-, e⟩ | ⟨bit, -, ⟨t, -, e⟩ | ⟨p, -, -, e⟩ | e⟩ <;> rw [e]
    · exact .inl ⟨rfl, rfl⟩
    all_goals exact .inr ⟨bit, rfl, rfl⟩

/-- Settles O40: the increment saturates. -/
theorem detectedBitCounter : Obligations.DetectedBitCounter := by
  intro ts a b s s' hexec
  rw [exec_dSample] at hexec
  cases hexec
  rw [State.answerD_dem]
  rcases sample_buf_count s.dem s.straps.tieFreq ts a b with ⟨hcount, hbuf⟩ | ⟨bit, hbuf, hcount⟩
  · exact ⟨hcount ▸ le_rfl, .inl ⟨hcount, hbuf⟩⟩
  · have hinc := satInc_toNat s.dem.count
    have := s.dem.count.isLt
    rw [hcount]
    exact ⟨by omega, .inr ⟨bit, hbuf, hinc⟩⟩

/-- Settles O41: in a primed session only an accepted transition moves the current record. -/
theorem debounceSeparatesTransitions : Obligations.DebounceSeparatesTransitions := by
  intro ts a b s s' hexec hprimed hmoved
  rw [exec_dSample] at hexec
  cases hexec
  rw [State.answerD_dem] at hmoved ⊢
  rcases sample_outcomes s.dem s.straps.tieFreq ts a b with e | ⟨-, hlevel, -⟩ | ⟨l, -, -, -, hle, e⟩
  · rw [e] at hmoved
    simp at hmoved
  · exact absurd hlevel hprimed
  · rw [e, (Sample.bitStage_keepsTransition _).tstart, ← Sample.debounce_eq]
    exact ⟨rfl, hle⟩

/-! The transitions of d_fsm -/

theorem tearDown_fsm (d : Demod) : d.tearDown.fsm = if d.fsm.active = true then .stopped else d.fsm := by
  rcases d.tearDown_cases with ⟨h, e⟩ | ⟨h, e⟩ <;> simp [e, h]

theorem start_fsm (mode : Mode) (sens : BitVec 7) (t : BitVec 32) (d : Demod) :
    (d.start mode sens t).fsm = if badDemodConfig mode sens t = false then .armed
      else if d.fsm.active = true then .stopped else d.fsm := by
  rcases d.start_cases mode sens t with ⟨h, e⟩ | ⟨h, e⟩
  · rw [e, Demod.raiseBadConfig_fsm, tearDown_fsm, h]
    rfl
  · rw [e, Demod.arm_fsm, if_pos h]

/-- Stages 3 to 6 complete the session exactly when they answer Complete, if it was not complete before (R204). -/
theorem bitStage_complete_iff {d : Demod} (h : d.fsm ≠ .complete) :
    d.bitStage.1.fsm = .complete ↔ ∃ t, d.bitStage.2 = .complete t := by
  rcases bitStage_outcomes d with ⟨-, e⟩ | ⟨bit, -, ⟨t, -, e⟩ | ⟨p, -, -, e⟩ | e⟩ <;> simp [e, h]

/-- After a D_SAMPLE the session is complete exactly when the answer is Complete (R170, R204). -/
theorem sample_complete_iff (d : Demod) (tie : Band) (ts : BitVec 64) (a b : BitVec 16) :
    (d.sample tie ts a b).1.fsm = .complete ↔ ∃ t, (d.sample tie ts a b).2 = .complete t := by
  rcases sample_outcomes d tie ts a b with e | ⟨hfsm, -, e⟩ | ⟨l, -, -, -, -, e⟩ <;> rw [e]
  · by_cases hcomplete : d.fsm = .complete <;> simp [hcomplete]
  · rcases hfsm with h | h <;> simp [h]
  · exact bitStage_complete_iff nofun

/-- An accepted transition leaves a session that accumulates or is complete (R176, R204). -/
theorem sample_fsm_of_accepts {d : Demod} {tie : Band} {ts : BitVec 64} {a b : BitVec 16}
    (hfsm : d.fsm = .armed ∨ d.fsm = .accumulating) (h : d.accepts tie ts a b) :
    (d.sample tie ts a b).1.fsm = .accumulating ∨ (d.sample tie ts a b).1.fsm = .complete := by
  obtain ⟨l, -, -, -, e⟩ := sample_of_accepts hfsm h
  rw [e]
  exact (Sample.bitStage_keepsTransition _).fsm

/-- A sample that is no accepted transition leaves d_fsm (R174, R175). -/
theorem sample_fsm_of_not_accepts {d : Demod} {tie : Band} {ts : BitVec 64} {a b : BitVec 16}
    (hfsm : d.fsm = .armed ∨ d.fsm = .accumulating) (h : ¬ d.accepts tie ts a b) :
    (d.sample tie ts a b).1.fsm = d.fsm := by
  rcases sample_of_not_accepts hfsm h with ⟨-, e⟩ | ⟨-, e⟩ <;> rw [e]
  rfl

/-- The operations that leave the DEMODULATOR alone (R153's empty columns). -/
theorem dem_unchanged {i : Instr} {s s' : State} (hexec : exec i s = .next s')
    (h : i.onM = true ∨ i.isCmd = true ∨ i = .dNop ∨ ∃ op, i = .dReserved op) : s'.dem = s.dem := by
  obtain ⟨-, -, -, -, hM, -, hC, -⟩ := Block.operationsChangeOnlyTheirPort i s s' hexec
  rcases h with h | h | rfl | ⟨op, rfl⟩
  · exact (hM h).1
  · exact (hC h).1
  · cases hexec
    rfl
  · cases hexec
    rfl

/-- Settles O27: R153's table, operation by operation. -/
theorem sessionTransitions : Obligations.SessionTransitions := by
  intro i s s' hexec
  refine ⟨?_, fun h => congrArg Demod.fsm (dem_unchanged hexec h), ?_, ?_, ?_⟩
  · rintro rfl
    cases hexec
    rfl
  · rintro rfl
    cases hexec
    exact tearDown_fsm s.dem
  · rintro mode sens t rfl
    cases hexec
    exact start_fsm mode sens t s.dem
  · rintro ts a b rfl
    cases hexec
    refine ⟨fun hfsm => ?_, fun harmed hacc => ?_, fun harmed hacc => ?_, fun hacc => ?_, ?_⟩
    · exact congrArg (fun r => Demod.fsm r.1) (sample_of_not_receiving hfsm ..)
    · exact (sample_fsm_of_not_accepts (.inl harmed) hacc).trans harmed
    · exact sample_fsm_of_accepts (.inl harmed) hacc
    · by_cases haccepts : s.dem.accepts s.straps.tieFreq ts a b
      · exact sample_fsm_of_accepts (.inr hacc) haccepts
      · exact .inl ((sample_fsm_of_not_accepts (.inr hacc) haccepts).trans hacc)
    · simpa using sample_complete_iff s.dem s.straps.tieFreq ts a b

/-! The fields of DRSP -/

/-- Bit j of the number a bit string spells is its j-th bit from the end. -/
theorem bitsVal_testBit (g : Bits) (j : Nat) : (bitsVal g).testBit j = g.reverse.getD j false := by
  induction g using List.reverseRecOn generalizing j with
  | nil => simp [bitsVal]
  | append_singleton g b ih =>
    have hstep : bitsVal (g ++ [b]) = 2 * bitsVal g + b.toNat := by simp [bitsVal]
    rw [hstep, List.reverse_append]
    cases j with
    | zero => cases b <;> simp [Nat.testBit_zero, Nat.add_mod]
    | succ j =>
      have hhalf : (2 * bitsVal g + b.toNat) / 2 = bitsVal g := by
        have := b.toNat_le
        omega
      rw [Nat.testBit_succ, hhalf, ih]
      rfl

/-- The live view: the newest bit at position 0, zeros beyond BUF (R32, R101). -/
theorem liveBits_getLsbD (buf : Bits) {j : Nat} (h : j < 50) :
    (liveBits buf).getLsbD j = if j < buf.length then buf.reverse.getD j false else false := by
  have hlast : (bitLast buf Config.liveWin).reverse = buf.reverse.take 50 := by
    rw [bitLast, List.reverse_drop, List.take_eq_take_iff, List.length_reverse]
    simp only [Config.liveWin]
    omega
  rw [liveBits, BitVec.getLsbD_ofNat, decide_eq_true h, Bool.true_and, bitsVal_testBit, hlast]
  split_ifs with hj
  · simp [List.getD_eq_getElem?_getD, h]
  · simp [List.getD_eq_getElem?_getD, h, Nat.not_lt.mp hj]

theorem liveLen_toNat (buf : Bits) : (liveLen buf).toNat = min buf.length 50 := by
  rw [liveLen, BitVec.toNat_ofNat]
  exact Nat.mod_eq_of_lt (by simp only [Config.liveWin]; omega)

/-- A text that fits its field is carried whole, with zeros beyond it (R101). -/
theorem text_fields {r : DRsp} (h : r.result.text.length ≤ 248) :
    r.textLen.toNat = r.result.text.length ∧
    (∀ (j : Nat) (hj : j < r.result.text.length), r.textByte j = r.result.text[j]) ∧
    (∀ j, r.textLen.toNat ≤ j → r.textByte j = 0) := by
  have hlen : r.textLen.toNat = r.result.text.length := by
    rw [DRsp.textLen, BitVec.toNat_ofNat]
    exact Nat.mod_eq_of_lt (by omega)
  refine ⟨hlen, fun j hj => (List.getElem_eq_getD 0).symm, fun j hj => ?_⟩
  rw [hlen] at hj
  exact List.getD_eq_default _ _ hj

/-- The text a D_SAMPLE answers fits its field (R30, R64). -/
theorem sample_text_length {d : Demod} (hinv : DemodInv d) (tie : Band) (ts : BitVec 64) (a b : BitVec 16) :
    (d.sample tie ts a b).2.text.length ≤ 248 := by
  rcases sample_outcomes d tie ts a b with e | ⟨-, -, e⟩ | ⟨l, -, -, -, -, e⟩ <;> rw [e]
  · obtain ⟨hfinal, -⟩ := hinv.final_text
    by_cases hcomplete : d.fsm = .complete <;> simp [hcomplete, Result.text, hfinal]
  · simp [Result.text]
  · have hlen (bit : Bool) : (bufAppend d.buf bit).length ≤ 2000 := by
      have := hinv.buf_len
      rw [bufAppend_length]
      split_ifs <;> omega
    rcases bitStage_outcomes (Sample.afterTransition d l (binarize tie d.mode d.sens a b) ts) with
      ⟨-, e⟩ | ⟨bit, -, ⟨t, hfound, e⟩ | ⟨p, hp, -, e⟩ | e⟩ <;> rw [e]
    · simp [Result.text]
    · have hfits : 8 * t.length + 16 ≤ (bufAppend d.buf bit).length := (frameSearch_text _ t hfound).1
      have := hlen bit
      simp only [Result.text]
      omega
    · have hfits := (previewText_eq_some _ p hp).1
      simp only [Result.text]
      omega
    · simp [Result.text]

/-- Every operation of the D port but D_SAMPLE answers Pending (R150 to R152). -/
theorem answer_pending {i : Instr} (h : ∀ ts a b, i ≠ .dSample ts a b) (straps : Config.Straps) (d : Demod) :
    (d.answer straps i).2 = .pending := by
  cases i with
  | dSample ts a b => exact absurd rfl (h ts a b)
  | _ => rfl

theorem answer_text_length {d : Demod} (hinv : DemodInv d) (straps : Config.Straps) (i : Instr) :
    (d.answer straps i).2.text.length ≤ 248 := by
  cases i with
  | dSample ts a b => exact sample_text_length hinv ..
  | _ => exact Nat.zero_le _

/-- Settles O28: the response repeats the registers; its live view and its text fit their fields. -/
theorem drspFields : Obligations.DrspFields := by
  intro i s s' hi hinv hexec
  rw [exec_onD i s hi] at hexec
  cases hexec
  have hfits := answer_text_length hinv s.straps i
  obtain ⟨hlen, hin, hbeyond⟩ :=
    text_fields (r := DRsp.of (s.dem.answer s.straps i).1 (s.dem.answer s.straps i).2) hfits
  refine ⟨_, State.answerD_dRsp .., rfl, rfl, rfl, rfl, rfl, liveLen_toNat _, fun j => liveBits_getLsbD _,
    fun hpending => ?_, fun hother => answer_pending hother .., hlen, hfits, hin, hbeyond⟩
  rw [DRsp.textLen, hpending]
  rfl

end Sys2Proof.Proofs.Outcome

/-! PROOFS. Level mode (70_reset_and_hazards.md R266): in a string of alternating bits no frame and no preview is found,
and the bits of a Level-mode session alternate. -/

namespace Sys2Proof.Proofs.LevelMode

open Sys2Proof Sys2Proof.Machine

/-! Alternating bits -/

theorem alternating_of_suffix {g h : Bits} (hsuffix : g <:+ h) (halt : alternating h) : alternating g :=
  List.IsChain.suffix halt hsuffix

/-- A string alternates on with a bit that differs from its last one. -/
theorem alternating_append {g : Bits} {b : Bool} (halt : alternating g) (hlast : g.getLast? ≠ some b) :
    alternating (g ++ [b]) := by
  refine List.isChain_append.mpr ⟨halt, List.isChain_singleton b, fun x hx y hy hxy => hlast ?_⟩
  rw [List.head?_cons, Option.mem_some_iff] at hy
  rw [hx, hxy, hy]

/-- Two bits of an alternating string are equal when their distance is even. -/
theorem alternating_getElem? {g : Bits} (halt : alternating g) (i k : Nat) (h : i + 2 * k < g.length) :
    g[i + 2 * k]? = g[i]? := by
  have hne := List.isChain_iff_getElem.mp halt
  induction k with
  | zero => rfl
  | succ k ih =>
    have h1 := hne (i + 2 * k) (by omega)
    have h2 := hne (i + 2 * k + 1) (by omega)
    have htwo : g[i + 2 * k + 1 + 1] = g[i + 2 * k] := by
      revert h1 h2
      cases g[i + 2 * k] <;> cases g[i + 2 * k + 1] <;> cases g[i + 2 * k + 1 + 1] <;> decide
    rw [← ih (by omega), show i + 2 * (k + 1) = i + 2 * k + 1 + 1 by omega, List.getElem?_eq_getElem (by omega),
      List.getElem?_eq_getElem (by omega), htwo]

/-- Where a pattern of eight bits stands, its first bit stands. -/
theorem getElem?_of_bitSub {g pat : Bits} {i : Nat} {b : Bool} (h : bitSub g i 8 = b :: pat) : g[i]? = some b := by
  have h0 : (bitSub g i 8)[0]? = some b := by rw [h, List.getElem?_cons_zero]
  simpa [bitSub] using h0

/-- An end marker stands an odd number of bits after a start marker, so the span between the two is not whole bytes. -/
theorem frameSearch_of_alternating {g : Bits} (halt : alternating g) : frameSearch g = none := by
  refine Option.eq_none_iff_forall_ne_some.mpr fun t hfound => ?_
  obtain ⟨i, j, hstart, hend, hpos, hwhole, -⟩ := (FrameDecoder.frameSearchFirstPair g t).mp hfound
  obtain ⟨-, -, hat, -⟩ := bitFind_some _ _ _ _ hstart
  obtain ⟨hafter, hfits, hat', -⟩ := bitFind_some _ _ _ _ hend
  simp only [List.length_cons, List.length_nil] at hfits
  have heven : j = i + 2 * ((j - i) / 2) := by omega
  have hsame := alternating_getElem? halt i ((j - i) / 2) (by omega)
  rw [← heven, getElem?_of_bitSub hat, getElem?_of_bitSub hat'] at hsame
  cases hsame

/-- Alternating bits that begin with 1 go on with 0 and then, if there are more, again with 1. -/
theorem alternating_from_one {b : Bool} {g : Bits} (halt : alternating (true :: b :: g)) :
    b = false ∧ alternating g ∧ ∀ c ∈ g.head?, c = true := by
  obtain ⟨hb, hrest⟩ := List.isChain_cons_cons.mp halt
  obtain rfl : b = false := by simpa using hb
  cases g with
  | nil => exact ⟨rfl, List.isChain_nil, nofun⟩
  | cons c g =>
    obtain ⟨hc, hg⟩ := List.isChain_cons_cons.mp hrest
    refine ⟨rfl, hg, fun x hx => ?_⟩
    obtain rfl : c = x := by simpa using hx
    simpa using hc

/-- Alternating bits that begin with 1 are bytes 0xAA, which are not printable (R201). -/
theorem decodeBytes_of_alternating (g : Bits) (halt : alternating g) (hhead : ∀ b ∈ g.head?, b = true) :
    decodeBytes g = [] := by
  have group {a b c d e f g h : Bool} {rest : Bits} (halt : alternating (a :: b :: c :: d :: e :: f :: g :: h :: rest))
      (hhead : ∀ b ∈ (a :: b :: c :: d :: e :: f :: g :: h :: rest).head?, b = true) :
      [a, b, c, d, e, f, g, h] = [true, false, true, false, true, false, true, false] ∧
      alternating rest ∧ ∀ b ∈ rest.head?, b = true := by
    obtain rfl : a = true := hhead a rfl
    obtain ⟨rfl, halt, hhead⟩ := alternating_from_one halt
    obtain rfl : c = true := hhead c rfl
    obtain ⟨rfl, halt, hhead⟩ := alternating_from_one halt
    obtain rfl : e = true := hhead e rfl
    obtain ⟨rfl, halt, hhead⟩ := alternating_from_one halt
    obtain rfl : g = true := hhead g rfl
    obtain ⟨rfl, halt, hhead⟩ := alternating_from_one halt
    exact ⟨rfl, halt, hhead⟩
  fun_induction decodeBytes g with
  | case1 a b c d e f g h rest hp ih =>
    obtain ⟨hbits, -, -⟩ := group halt hhead
    rw [hbits] at hp
    exact absurd hp (by decide)
  | case2 a b c d e f g h rest hp ih =>
    obtain ⟨-, hrest, hnext⟩ := group halt hhead
    exact ih hrest hnext
  | case3 g hg => rfl

/-- The preview of alternating bits is empty: the start marker begins with 1, and so do the bits after it (R205). -/
theorem previewText_of_alternating {g : Bits} {p : Text} (halt : alternating g) (h : previewText g = some p) :
    p = [] := by
  have hw : alternating (bitLast g Config.previewWin) := alternating_of_suffix (bitLast_suffix _ _) halt
  cases hfind : bitFind (bitLast g Config.previewWin) Config.startMarker 0 with
  | none =>
    rw [FrameDecoder.previewText_of_no_marker g hfind] at h
    cases h
  | some i =>
    rw [FrameDecoder.previewText_of_marker g i hfind] at h
    cases h
    obtain ⟨-, -, hat, -⟩ := bitFind_some _ _ _ _ hfind
    have hstarts := getElem?_of_bitSub hat
    have hrest : alternating ((bitLast g Config.previewWin).drop (i + 8)) :=
      alternating_of_suffix (List.drop_suffix _ _) hw
    refine decodeBytes_of_alternating _ (List.IsChain.take hrest _) fun b hb => ?_
    have hnext : (bitLast g Config.previewWin)[i + 8]? = some b := by
      rw [List.head?_take] at hb
      split_ifs at hb
      · cases hb
      · simpa [List.head?_drop] using hb
    obtain ⟨hlt, -⟩ := List.getElem?_eq_some_iff.mp hnext
    have hsame := alternating_getElem? hw i 4 hlt
    rw [hstarts, hnext] at hsame
    exact Option.some.inj hsame

/-! A Level-mode session -/

theorem level_ne_iff (l l' : Lvl) : l ≠ l' ↔ decide (l = .low) ≠ decide (l' = .low) := by
  cases l <;> cases l' <;> decide

/-- The first record of a session gives no bit (R177). -/
theorem extractLevel_first (r : HistRec) : extractLevel (histPush [] r) = none := rfl

/-- A record pushed on one of the other level gives its direction (R177). -/
theorem extractLevel_next (pre : List HistRec) {p r : HistRec} (h : p.level ≠ r.level) :
    extractLevel (histPush (pre ++ [p]) r) = some (decide (r.level = .low)) := by
  obtain ⟨pre', e⟩ := histPush_concat pre p r
  rw [e, extractLevel_concat]
  revert h
  cases p.level <;> cases r.level <;> decide

/-- The bit of an accepted transition of a Level-mode session: none for the first record, then the level that ended. -/
theorem extractBit_of_level {d : Demod} (hinv : DemodInv d) (hmode : d.mode = .level) {l : Lvl}
    (hlevel : d.level = some l) (bin : Lvl × Option Band) (ts : BitVec 64) :
    extractBit (Sample.afterTransition d l bin ts).mode (Sample.afterTransition d l bin ts).hist =
      if d.hist = [] then none else some (decide (l = .low)) := by
  have hmode' : (Sample.afterTransition d l bin ts).mode = .level := hmode
  rw [hmode']
  show extractLevel (histPush d.hist ⟨l, ts - d.tstart, d.freq⟩) = _
  rcases List.eq_nil_or_concat d.hist with hnil | ⟨pre, p, hconcat⟩
  · rw [if_pos hnil, hnil, extractLevel_first]
  · rw [List.concat_eq_append] at hconcat
    have hne : p.level ≠ l := fun h => hinv.hist_newest p (by simp [hconcat]) (by rw [hlevel, h])
    rw [if_neg (by simp [hconcat]), hconcat, extractLevel_next pre (r := ⟨l, ts - d.tstart, d.freq⟩) hne]

/-- The bit of a transition differs from the newest bit, since its level differs from the newest record's (R266). -/
theorem newest_bit_ne {d : Demod} (hinv : DemodInv d) (hlevelInv : LevelInv d) {l : Lvl} (hlevel : d.level = some l) :
    d.buf.getLast? ≠ some (decide (l = .low)) := by
  rw [hlevelInv.newest_bit]
  split_ifs
  · intro h
    obtain ⟨r, hr, hbit⟩ := Option.map_eq_some_iff.mp h
    have hsame : r.level = l := by
      by_contra hne
      exact (level_ne_iff r.level l).mp hne hbit
    exact hinv.hist_newest r hr (by rw [hlevel, hsame])
  · nofun

/-- With its bit appended, the transition's record is what the newest bit tells (R177). -/
theorem levelInv_accumulate {d : Demod} (hinv : DemodInv d) (hlevelInv : LevelInv d) {l : Lvl}
    (hlevel : d.level = some l) (hhist : d.hist ≠ []) (bin : Lvl × Option Band) (ts : BitVec 64) :
    LevelInv ((Sample.afterTransition d l bin ts).accumulate (decide (l = .low))) where
  not_complete := nofun
  no_preview := hlevelInv.no_preview
  bits_alternate := alternating_of_suffix (bufAppend_suffix _ _)
    (alternating_append hlevelInv.bits_alternate (newest_bit_ne hinv hlevelInv hlevel))
  newest_bit := by
    have hlen : 2 ≤ (histPush d.hist ⟨l, ts - d.tstart, d.freq⟩).length := by
      have := List.length_pos_iff.mpr hhist
      rw [histPush_length]
      omega
    show (bufAppend d.buf _).getLast? = if 2 ≤ (histPush d.hist ⟨l, ts - d.tstart, d.freq⟩).length
      then (histPush d.hist ⟨l, ts - d.tstart, d.freq⟩).getLast?.map _ else none
    rw [if_pos hlen, histPush_getLast?, bufAppend_getLast?]
    rfl

/-- The first transition of a session leaves no bit, and one record (R177). -/
theorem levelInv_first {d : Demod} (hlevelInv : LevelInv d) (hhist : d.hist = []) (l : Lvl) (bin : Lvl × Option Band)
    (ts : BitVec 64) : LevelInv (Sample.afterTransition d l bin ts) where
  not_complete := nofun
  no_preview := hlevelInv.no_preview
  bits_alternate := hlevelInv.bits_alternate
  newest_bit := by
    have hnewest := hlevelInv.newest_bit
    rw [hhist] at hnewest
    show d.buf.getLast? = if 2 ≤ (histPush d.hist ⟨l, ts - d.tstart, d.freq⟩).length then _ else none
    rw [hnewest, hhist]
    rfl

/-- What an accepted transition of a Level-mode session leaves: a bit from the second record on, and nothing is found in
the bits (R177, R266). -/
theorem bitStage_of_level {d : Demod} (hinv : DemodInv d) (hlevelInv : LevelInv d) (hmode : d.mode = .level) {l : Lvl}
    (hlevel : d.level = some l) (bin : Lvl × Option Band) (ts : BitVec 64) :
    (Sample.afterTransition d l bin ts).bitStage.2 = .pending ∧
    LevelInv (Sample.afterTransition d l bin ts).bitStage.1 := by
  have hextract := extractBit_of_level hinv hmode hlevel bin ts
  rcases Outcome.bitStage_outcomes (Sample.afterTransition d l bin ts) with ⟨hnone, e⟩ | ⟨bit, hbit, houtcome⟩
  · rw [hextract] at hnone
    have hhist : d.hist = [] := by
      by_contra hne
      simp [hne] at hnone
    rw [e]
    exact ⟨rfl, levelInv_first hlevelInv hhist l bin ts⟩
  · rw [hextract] at hbit
    split_ifs at hbit with hhist
    obtain rfl := Option.some.inj hbit
    have hkept := levelInv_accumulate hinv hlevelInv hlevel hhist bin ts
    rcases houtcome with ⟨t, hfound, -⟩ | ⟨p, hp, hnew, -⟩ | e
    · cases (frameSearch_of_alternating hkept.bits_alternate).symm.trans hfound
    · have hempty : d.preview = [] := hlevelInv.no_preview
      exact absurd ((previewText_of_alternating hkept.bits_alternate hp).trans hempty.symm) hnew
    · rw [e]
      exact ⟨rfl, hkept⟩

/-- Every D_SAMPLE of a Level-mode session answers Pending and keeps what the session has (R266). -/
theorem sample_of_level {d : Demod} (hinv : DemodInv d) (hlevelInv : LevelInv d) (hmode : d.mode = .level) (tie : Band)
    (ts : BitVec 64) (a b : BitVec 16) :
    (d.sample tie ts a b).2 = .pending ∧ LevelInv (d.sample tie ts a b).1 := by
  rcases Outcome.sample_outcomes d tie ts a b with e | ⟨-, -, e⟩ | ⟨l, -, hlevel, -, -, e⟩ <;> rw [e]
  · exact ⟨if_neg hlevelInv.not_complete, hlevelInv⟩
  · obtain ⟨hcomplete, hpreview, halt, hnewest⟩ := hlevelInv
    exact ⟨rfl, hcomplete, hpreview, halt, hnewest⟩
  · exact bitStage_of_level hinv hlevelInv hmode hlevel _ ts

/-- Settles O47: the invariant carries what a Level-mode session has. -/
theorem levelModeAlwaysPending : Obligations.LevelModeAlwaysPending := by
  intro ts a b s s' hinv hactive hmode hexec
  rw [exec_dSample] at hexec
  cases hexec
  obtain ⟨hpending, hkept⟩ :=
    sample_of_level hinv.dem (hinv.level hactive hmode) hmode s.straps.tieFreq ts a b
  exact ⟨by rw [State.answerD_dRsp, State.answerD_dem, hpending], hkept.bits_alternate⟩

end Sys2Proof.Proofs.LevelMode

/-! PROOFS. The invariant of the block holds after reset and is kept by every step (70_reset_and_hazards.md R280 to
R282, 10_state.md R20 to R40). -/

namespace Sys2Proof.Proofs.Invariant

open Sys2Proof Sys2Proof.Machine

/-! The DEMODULATOR outside D_SAMPLE -/

/-- A fresh DetectionState has the invariant, in every state of a session but the two that have seen a transition. -/
theorem demodInv_of_fresh {d : Demod} (hfresh : d = d.fresh) (hfsm : d.fsm ≠ .accumulating ∧ d.fsm ≠ .complete)
    (hconfig : d.fsm.active = true → d.configLegal) : DemodInv d := by
  obtain ⟨haccumulating, hcomplete⟩ := hfsm
  rw [hfresh] at hconfig ⊢
  exact {
    hist_len := Nat.zero_le _
    hist_alternates := List.isChain_nil
    hist_newest := nofun
    hist_debounced := nofun
    hist_freq := nofun
    freq_mode := rfl
    buf_len := Nat.zero_le _
    buf_count := fun _ => rfl
    buf_kept := fun h => absurd h (by simp)
    outside := fun _ => rfl
    armed := fun _ => ⟨rfl, rfl, rfl, rfl⟩
    primed := fun h => absurd h (by simp [haccumulating, hcomplete])
    config := hconfig
    final_complete := by simp [hcomplete]
    final_text := ⟨Nat.zero_le _, nofun, fun h => absurd rfl h⟩
    preview_text := ⟨Nat.zero_le _, nofun⟩ }

theorem demodInv_tearDown {d : Demod} (hinv : DemodInv d) : DemodInv d.tearDown := by
  rcases d.tearDown_cases with ⟨-, e⟩ | ⟨-, e⟩ <;> rw [e]
  · exact hinv
  · exact demodInv_of_fresh rfl ⟨nofun, nofun⟩ nofun

theorem demodInv_raiseBadConfig {d : Demod} (hinv : DemodInv d) : DemodInv d.raiseBadConfig :=
  { hinv with outside := fun h => congrArg Demod.raiseBadConfig (hinv.outside h) }

theorem demodInv_start {d : Demod} (hinv : DemodInv d) (mode : Mode) (sens : BitVec 7) (t : BitVec 32) :
    DemodInv (d.start mode sens t) := by
  rcases d.start_cases mode sens t with ⟨-, e⟩ | ⟨hgood, e⟩ <;> rw [e]
  · exact demodInv_raiseBadConfig (demodInv_tearDown hinv)
  · exact demodInv_of_fresh rfl ⟨nofun, nofun⟩ fun _ => hgood

/-! The DEMODULATOR through D_SAMPLE -/

theorem binarize_freq (tie : Band) (mode : Mode) (sens : BitVec 7) (a b : BitVec 16) :
    (binarize tie mode sens a b).2.isSome = decide (mode = .tone) := by
  cases mode <;> rfl

/-- The first sample of a session (R174). -/
theorem demodInv_begin {d : Demod} (hinv : DemodInv d) (hfsm : d.fsm = .armed ∨ d.fsm = .accumulating)
    (hlevel : d.level = none) {bin : Lvl × Option Band} (hbin : bin.2.isSome = decide (d.mode = .tone))
    (ts : BitVec 64) : DemodInv (d.begin bin.1 bin.2 ts) := by
  have harmed : d.fsm = .armed := by
    rcases hfsm with h | h
    · exact h
    · have := (hinv.primed (.inl h)).1
      simp [hlevel] at this
  obtain ⟨hhist, -⟩ := hinv.armed harmed
  exact { hinv with
    hist_newest := fun r hr => by simp [hhist] at hr
    freq_mode := hbin
    outside := fun h => by simp [harmed, DFsm.active] at h
    primed := fun h => by simp [harmed] at h }

/-- The records after a push are old ones or the pushed one (R63). -/
theorem forall_mem_histPush {hist : List HistRec} {r : HistRec} {P : HistRec → Prop} (hold : ∀ x ∈ hist, P x)
    (hnew : P r) : ∀ x ∈ histPush hist r, P x := by
  intro x hx
  rcases List.mem_append.mp ((histPush_suffix hist r).subset hx) with h | h
  · exact hold x h
  · exact List.mem_singleton.mp h ▸ hnew

/-- An accepted transition keeps the invariant: the pushed record lasted the debounce time and differs in level from the
one before it and from the one that begins (R176, R280, R281). -/
theorem demodInv_afterTransition {d : Demod} (hinv : DemodInv d) (hfsm : d.fsm = .armed ∨ d.fsm = .accumulating)
    {l : Lvl} (hlevel : d.level = some l) {bin : Lvl × Option Band} (hbin : bin.2.isSome = decide (d.mode = .tone))
    (hne : bin.1 ≠ l) {ts : BitVec 64} (hle : d.tstart.toNat + debounce d.mode ≤ ts.toNat) :
    DemodInv (Sample.afterTransition d l bin ts) := by
  have hactive : d.fsm.active = true := by rcases hfsm with h | h <;> rw [h] <;> rfl
  have hnot_complete : d.fsm ≠ .complete := by rcases hfsm with h | h <;> simp [h]
  have hfinal : d.final = [] := by_contra fun h => hnot_complete (hinv.final_complete.mpr h)
  have hfreq : d.freq.isSome = decide (d.mode = .tone) := by simpa [hlevel] using hinv.freq_mode
  have helapsed : debounce d.mode ≤ (ts - d.tstart).toNat := by
    rw [BitVec.toNat_sub_of_le (BitVec.le_def.mpr (by omega))]
    omega
  have hchain : List.IsChain (fun x y => x.level ≠ y.level) (d.hist ++ [⟨l, ts - d.tstart, d.freq⟩]) := by
    refine List.isChain_append.mpr ⟨hinv.hist_alternates, List.isChain_singleton _, fun x hx y hy hxy => ?_⟩
    obtain rfl : (⟨l, ts - d.tstart, d.freq⟩ : HistRec) = y := by simpa using hy
    exact hinv.hist_newest x hx (by rw [hlevel, hxy])
  exact { hinv with
    hist_len := by
      show (histPush _ _).length ≤ 20
      rw [histPush_length]
      exact Nat.min_le_right _ _
    hist_alternates := List.IsChain.suffix hchain (histPush_suffix _ _)
    hist_newest := fun r hr hsame => by
      have hr' : r ∈ (histPush d.hist ⟨l, ts - d.tstart, d.freq⟩).getLast? := hr
      rw [histPush_getLast?, Option.mem_some_iff] at hr'
      subst hr'
      exact hne (Option.some.inj hsame)
    hist_debounced := forall_mem_histPush hinv.hist_debounced helapsed
    hist_freq := forall_mem_histPush hinv.hist_freq hfreq
    freq_mode := hbin
    outside := nofun
    armed := nofun
    primed := fun _ => ⟨rfl, List.ne_nil_of_length_pos (by
      show 0 < (histPush _ _).length
      rw [histPush_length]
      omega)⟩
    config := fun _ => hinv.config hactive
    final_complete := by simp [Sample.afterTransition, hfinal] }

/-- A bit joins BUF and is counted: BUF holds all bits until it is cut, and at least 1000 after that (R179, R282). -/
theorem demodInv_accumulate {d : Demod} (hinv : DemodInv d) (hfsm : d.fsm = .accumulating) (bit : Bool) :
    DemodInv (d.accumulate bit) := by
  have hlen := hinv.buf_len
  have hcount := hinv.buf_count
  have hkept := hinv.buf_kept
  have hbuf := bufAppend_length d.buf bit
  have hinc := satInc_toNat d.count
  exact { hinv with
    buf_len := by
      rw [Demod.accumulate_buf, hbuf]
      split_ifs <;> omega
    buf_count := by
      rw [Demod.accumulate_buf, Demod.accumulate_count, hbuf, hinc]
      intro h
      rw [hcount (by omega), if_pos (by omega)]
      omega
    buf_kept := by
      rw [Demod.accumulate_buf, Demod.accumulate_count, hbuf, hinc]
      intro h
      split_ifs <;> omega
    outside := fun h => by simp [hfsm, DFsm.active] at h
    armed := fun h => by simp [hfsm] at h }

/-- The text of a found frame fits its register, is printable and not blank (R30, R203). -/
theorem demodInv_complete {d : Demod} (hinv : DemodInv d) (hfsm : d.fsm = .accumulating) {t : Text}
    (hfound : frameSearch d.buf = some t) : DemodInv { d with final := t, fsm := .complete } := by
  obtain ⟨hlen, hprintable, hblank, hne⟩ := frameSearch_text d.buf t hfound
  have := hinv.buf_len
  exact { hinv with
    outside := nofun
    armed := nofun
    primed := fun _ => hinv.primed (.inl hfsm)
    config := fun _ => hinv.config (by rw [hfsm]; rfl)
    final_complete := by simp [hne]
    final_text := ⟨by show t.length ≤ 248; omega, hprintable, fun _ => hblank⟩ }

theorem demodInv_preview {d : Demod} (hinv : DemodInv d) (hfsm : d.fsm = .accumulating) {p : Text}
    (hp : previewText d.buf = some p) : DemodInv { d with preview := p } :=
  { hinv with
    outside := fun h => by simp [hfsm, DFsm.active] at h
    armed := fun h => by simp [hfsm] at h
    preview_text := previewText_eq_some d.buf p hp }

theorem demodInv_bitStage {d : Demod} (hinv : DemodInv d) (hfsm : d.fsm = .accumulating) : DemodInv d.bitStage.1 := by
  rcases Outcome.bitStage_outcomes d with ⟨-, e⟩ | ⟨bit, -, ⟨t, hfound, e⟩ | ⟨p, hp, -, e⟩ | e⟩ <;> rw [e]
  · exact hinv
  · exact demodInv_complete (demodInv_accumulate hinv hfsm bit) hfsm hfound
  · exact demodInv_preview (demodInv_accumulate hinv hfsm bit) hfsm hp
  · exact demodInv_accumulate hinv hfsm bit

theorem demodInv_sample {d : Demod} (hinv : DemodInv d) (tie : Band) (ts : BitVec 64) (a b : BitVec 16) :
    DemodInv (d.sample tie ts a b).1 := by
  have hbin := binarize_freq tie d.mode d.sens a b
  rcases Outcome.sample_outcomes d tie ts a b with e | ⟨hfsm, hlevel, e⟩ | ⟨l, hfsm, hlevel, hne, hle, e⟩ <;> rw [e]
  · exact hinv
  · exact demodInv_begin hinv hfsm hlevel hbin ts
  · exact demodInv_bitStage (demodInv_afterTransition hinv hfsm hlevel hbin hne hle) rfl

theorem demodInv_answer {d : Demod} (hinv : DemodInv d) (straps : Config.Straps) (i : Instr) :
    DemodInv (d.answer straps i).1 := by
  cases i with
  | dStart mode sens t => exact demodInv_start hinv mode sens t
  | dSample ts a b => exact demodInv_sample hinv ..
  | dStop => exact demodInv_tearDown hinv
  | _ => exact hinv

/-! Level-mode sessions -/

theorem tearDown_not_active (d : Demod) : d.tearDown.fsm.active = false := by
  rcases d.tearDown_cases with ⟨h, e⟩ | ⟨-, e⟩ <;> rw [e]
  · exact h
  · rfl

/-- A session that has seen no sample has nothing that could alternate or complete (R150). -/
theorem levelInv_arm (d : Demod) (mode : Mode) (sens : BitVec 7) (t : BitVec 32) : LevelInv (d.arm mode sens t) where
  not_complete := nofun
  no_preview := rfl
  bits_alternate := List.isChain_nil
  newest_bit := rfl

/-- D_SAMPLE neither begins nor ends a session, and keeps its mode (R170). -/
theorem sample_session (d : Demod) (tie : Band) (ts : BitVec 64) (a b : BitVec 16) :
    (d.sample tie ts a b).1.mode = d.mode ∧ (d.sample tie ts a b).1.fsm.active = d.fsm.active := by
  rcases Outcome.sample_outcomes d tie ts a b with e | ⟨-, -, e⟩ | ⟨l, hfsm, -, -, -, e⟩ <;> rw [e]
  · exact ⟨rfl, rfl⟩
  · exact ⟨rfl, rfl⟩
  · have hactive : d.fsm.active = true := by rcases hfsm with h | h <;> rw [h] <;> rfl
    rw [hactive]
    rcases Outcome.bitStage_outcomes (Sample.afterTransition d l (binarize tie d.mode d.sens a b) ts) with
      ⟨-, e⟩ | ⟨bit, -, ⟨t, -, e⟩ | ⟨p, -, -, e⟩ | e⟩ <;> rw [e] <;> exact ⟨rfl, rfl⟩

theorem levelInv_answer {d : Demod} (hinv : DemodInv d)
    (hlevel : d.fsm.active = true → d.mode = .level → LevelInv d) (straps : Config.Straps) (i : Instr)
    (hactive : (d.answer straps i).1.fsm.active = true) (hmode : (d.answer straps i).1.mode = .level) :
    LevelInv (d.answer straps i).1 := by
  cases i with
  | dStart mode sens t =>
    have hstart : (d.answer straps (.dStart mode sens t)).1 = d.start mode sens t := rfl
    rw [hstart] at hactive ⊢
    rcases d.start_cases mode sens t with ⟨-, e⟩ | ⟨-, e⟩ <;> rw [e] at hactive ⊢
    · rw [Demod.raiseBadConfig_fsm, tearDown_not_active] at hactive
      cases hactive
    · exact levelInv_arm ..
  | dSample ts a b =>
    obtain ⟨hsameMode, hsameActive⟩ := sample_session d straps.tieFreq ts a b
    have hmode' : d.mode = .level := hsameMode.symm.trans hmode
    exact (LevelMode.sample_of_level hinv (hlevel (hsameActive.symm.trans hactive) hmode') hmode' ..).2
  | dStop =>
    have hended : (d.answer straps .dStop).1.fsm.active = false := tearDown_not_active d
    simp [hended] at hactive
  | _ => exact hlevel hactive hmode

/-! The MODULATOR -/

theorem modInv_tearDown {pm : Nat} {m : Machine.Modulator} (hinv : ModInv pm m) : ModInv pm m.tearDown.1 := by
  rcases m.tearDown_cases with ⟨-, e⟩ | ⟨-, e⟩ <;> rw [e]
  · exact hinv
  · exact { hinv with running := nofun, cancel_run := nofun, idle_empty := nofun, done_all := nofun }

/-- A loaded sequence stands at its first command, and its length fits m_L (R134, D31). -/
theorem modInv_load {pm : Nat} (hpm : pm ≤ 4093) {mode : Mode} {n : BitVec 16} {t : BitVec 32}
    (hgood : badModStart pm mode n t = false) (pay : Memory) (m : Machine.Modulator) :
    ModInv pm (m.load mode t (payload pay n.toNat)) := by
  obtain ⟨hpos, hmax, hdur⟩ := Sequence.operands_of_good hgood
  exact {
    frame_len := by
      rw [Modulator.load_frame, Modulator.load_len, frameOf_length, payload_length,
        Sequence.frameLen_toNat (hmax.trans hpm)]
    k_le := Nat.zero_le _
    running := fun _ => ⟨payload pay n.toNat, List.ne_nil_of_length_pos (by rw [payload_length]; omega),
      by rw [payload_length]; exact hmax, rfl, hdur⟩
    cancel_run := nofun
    idle_empty := nofun
    done_all := nofun }

theorem modInv_start {pm : Nat} (hpm : pm ≤ 4093) {m : Machine.Modulator} (hinv : ModInv pm m) (pay : Memory)
    (mode : Mode) (n : BitVec 16) (t : BitVec 32) : ModInv pm (m.start pm pay mode n t).1 := by
  rcases m.start_cases pm pay mode n t with ⟨-, e⟩ | ⟨hgood, e⟩ <;> rw [e]
  · exact { modInv_tearDown hinv with }
  · exact modInv_load hpm hgood pay m.tearDown.1

/-- A running sequence is short enough for m_k to count its commands (R38, D31). -/
theorem total_lt {pm : Nat} (hpm : pm ≤ 4093) {m : Machine.Modulator} (hinv : ModInv pm m) (hrun : m.fsm = .run) :
    m.total < 2 ^ 16 := by
  obtain ⟨p, -, hlen, hframe, -⟩ := hinv.running hrun
  have hframeLen := hinv.frame_len
  rw [hframe, frameOf_length] at hframeLen
  rw [Sequence.total_eq]
  split_ifs <;> omega

theorem modInv_step {pm : Nat} (hpm : pm ≤ 4093) {m : Machine.Modulator} (hinv : ModInv pm m) : ModInv pm m.step.1 := by
  rcases m.step_cases with ⟨-, e⟩ | ⟨-, -, e⟩ | ⟨-, hcancel, hend, e⟩ | ⟨hrun, -, hmore, e⟩ <;> rw [e]
  · exact hinv
  · exact { hinv with running := nofun, cancel_run := nofun, idle_empty := nofun, done_all := nofun }
  · exact { hinv with
      running := nofun
      cancel_run := fun h => by simp [hcancel] at h
      idle_empty := nofun
      done_all := fun _ => hend }
  · have hle := hinv.k_le
    have hlt := total_lt hpm hinv hrun
    have hnext := Sequence.k_succ_toNat (k := m.k) (by omega)
    exact { hinv with
      k_le := by
        show (m.k + 1).toNat ≤ m.total
        omega
      idle_empty := fun h => by simp [hrun] at h
      done_all := fun h => by simp [hrun] at h }

theorem modInv_requestCancel {pm : Nat} {m : Machine.Modulator} (hinv : ModInv pm m) : ModInv pm m.requestCancel := by
  rcases m.requestCancel_cases with ⟨-, e⟩ | ⟨hrun, e⟩ <;> rw [e]
  · exact hinv
  · exact { hinv with cancel_run := fun _ => hrun }

theorem modInv_answer {straps : Config.Straps} {m : Machine.Modulator} (hinv : ModInv straps.payloadMax.val m)
    (pay : Memory) (i : Instr) : ModInv straps.payloadMax.val (m.answer straps pay i).1 := by
  have hpm : straps.payloadMax.val ≤ 4093 := Nat.lt_succ_iff.mp straps.payloadMax.isLt
  cases i with
  | mStart mode n t => exact modInv_start hpm hinv pay mode n t
  | mStep => exact modInv_step hpm hinv
  | mCancel => exact modInv_requestCancel hinv
  | _ => exact hinv

/-- A sequencer without a sequence (R35, R45). -/
theorem modInv_idle (pm : Nat) (mode : Mode) (dur : BitVec 32) :
    ModInv pm ⟨.idle, mode, dur, [], 0, 0, false, false⟩ where
  frame_len := rfl
  k_le := Nat.zero_le _
  running := nofun
  cancel_run := nofun
  idle_empty := fun _ => ⟨rfl, rfl⟩
  done_all := nofun

/-! The whole block -/

/-- The driver's hand after a response: still a command the M port answers with (log 19). -/
theorem received_answerable {hand : Option Cmd} {c : Cmd} (hhand : ∀ x ∈ hand, x.answerable)
    (hcmd : c = Cmd.none ∨ c.answerable) : ∀ x ∈ received hand c, x.answerable := by
  rcases hcmd with rfl | hc
  · exact hhand
  · intro x hx
    unfold received at hx
    split_ifs at hx
    · exact Option.mem_some_iff.mp hx ▸ hc
    · exact hhand x hx

theorem inv_exec {i : Instr} {s s' : State} (hinv : Inv s) (hexec : exec i s = .next s') : Inv s' := by
  obtain ⟨hdem, hlevel, hmod, hpay, hhand⟩ := hinv
  rcases port_cases i with hM | hD | rfl | hC
  · rw [exec_onM i s hM] at hexec
    cases hexec
    exact ⟨hdem, hlevel, modInv_answer hmod s.pay i, hpay,
      received_answerable hhand (s.mod.answer_cmd s.straps s.pay i)⟩
  · rw [exec_onD i s hD] at hexec
    cases hexec
    exact ⟨demodInv_answer hdem s.straps i, levelInv_answer hdem hlevel s.straps i, hmod, hpay, hhand⟩
  · cases hexec
    exact ⟨demodInv_of_fresh rfl ⟨nofun, nofun⟩ nofun, nofun, modInv_idle .., hpay, hhand⟩
  · obtain ⟨act, hact⟩ := exec_isCmd i s hC
    rw [hact] at hexec
    cases hexec
    exact ⟨hdem, hlevel, hmod, hpay, hhand⟩

/-- Settles O51: a step holds the state, changes the inputs or PAY, or performs an operation. -/
theorem invariantKeptByEveryStep : Obligations.InvariantKeptByEveryStep := by
  intro s s' hinv hstep
  rcases step_next_cases s s' hstep with rfl | ⟨rest, rfl⟩ | ⟨a, v, rest, rfl⟩ | ⟨i, r, rest, hexec⟩
  · exact hinv
  · exact { hinv with }
  · exact { hinv with pay := Memory.wf_write s.pay a v hinv.pay }
  · exact inv_exec (s := { s with rst := r, inbox := rest }) { hinv with } hexec

/-- Settles O52: both agents are as after RESET, PAY is empty and the driver holds nothing. -/
theorem invariantAtReset : Obligations.InvariantAtReset :=
  ⟨demodInv_of_fresh rfl ⟨nofun, nofun⟩ nofun, nofun, modInv_idle .., rfl, nofun⟩

end Sys2Proof.Proofs.Invariant

/-! PROOFS. Facts about whole runs: BUF after any bits, samples that change nothing, the two ports interleaved, the
block between RESET and a start (10_state.md R27, 70_reset_and_hazards.md R261, R267, R282, R283, 20_memory.md R70). -/

namespace Sys2Proof.Proofs.WholeRun

open Sys2Proof Sys2Proof.Machine

/-! BUF -/

/-- Settles O39: bit by bit, BUF grows to 2000 and is then cut to its newest 1000. -/
theorem bufferIsTailOfAllBits : Obligations.BufferIsTailOfAllBits := by
  intro bits
  induction bits using List.reverseRecOn with
  | nil => exact ⟨List.suffix_rfl, fun _ => rfl, nofun⟩
  | append_singleton bits b ih =>
    obtain ⟨hsuffix, hwhole, hkept⟩ := ih
    rw [List.foldl_append, List.foldl_cons, List.foldl_nil, List.length_append, List.length_singleton]
    have hlen := bufAppend_length (bits.foldl bufAppend []) b
    obtain ⟨dropped, hdropped⟩ := hsuffix
    have hsuffix' : bits.foldl bufAppend [] ++ [b] <:+ bits ++ [b] :=
      ⟨dropped, by rw [← List.append_assoc, hdropped]⟩
    refine ⟨(bufAppend_suffix _ b).trans hsuffix', fun hle => ?_, fun hlt => ?_⟩
    · rw [hwhole (by omega), Memory.bufAppend_of_lt (by omega)]
    · rcases Nat.lt_or_ge 2000 bits.length with h | h
      · have := hkept h
        split_ifs at hlen <;> omega
      · rw [hwhole h] at hlen ⊢
        split_ifs at hlen <;> omega

/-! Samples that change nothing -/

/-- D-port operations that the DEMODULATOR answers alike, unchanged, leave of a run only that answer. -/
theorem execAll_of_unchanged {is : List Instr} {s : State} {r : Result}
    (h : ∀ i ∈ is, i.onD = true ∧ s.dem.answer s.straps i = (s.dem, r)) :
    execAll is s = .next (if is = [] then s else s.answerD (s.dem, r)) := by
  induction is generalizing s with
  | nil => rfl
  | cons i is ih =>
    obtain ⟨⟨hi, hanswer⟩, his⟩ := List.forall_mem_cons.mp h
    have hexec := exec_onD i s hi
    rw [hanswer] at hexec
    rw [Run.execAll_cons hexec, ih (s := s.answerD (s.dem, r)) his, if_neg (List.cons_ne_nil i is)]
    split_ifs <;> rfl

/-- Settles O48: each sample answers the final text and changes nothing. -/
theorem completeTextStays : Obligations.CompleteTextStays := by
  intro samples s hcomplete hne
  rw [execAll_of_unchanged (r := .complete s.dem.final), if_neg (by simpa using hne)]
  · rfl
  · intro i hi
    obtain ⟨x, -, rfl⟩ := List.mem_map.mp hi
    refine ⟨rfl, ?_⟩
    show s.dem.sample s.straps.tieFreq x.1 x.2.1 x.2.2 = _
    rw [Outcome.sample_of_not_receiving (.inr (.inr hcomplete)), if_pos hcomplete]

/-- In Tone mode the level is read from the larger energy (R172, R173). -/
theorem binarize_tone_level (tie : Band) (sens : BitVec 7) (a b : BitVec 16) :
    (binarize tie .tone sens a b).1 = if 100 * max a.toNat b.toNat > 65280 * sens.toNat then .high else .low :=
  congrArg Prod.fst (Sample.binarizeExact tie sens a b).2

/-- A sample at the current level is no candidate for a transition (R175). -/
theorem sample_of_same_level {d : Demod} {tie : Band} {ts : BitVec 64} {a b : BitVec 16}
    (hfsm : d.fsm = .armed ∨ d.fsm = .accumulating) (h : d.level = some (binarize tie d.mode d.sens a b).1) :
    d.sample tie ts a b = (d, .pending) := by
  rw [Sample.sample_of_receiving hfsm, Sample.senseStage_of_level h, if_pos (.inl rfl)]

/-- Settles O49: each of the samples is at the current level. -/
theorem soundWithoutSilenceIsOneInterval : Obligations.SoundWithoutSilenceIsOneInterval := by
  intro samples s s' hfsm hmode hlevel hloud hexec
  rw [execAll_of_unchanged (r := .pending)] at hexec
  · cases hexec
    split_ifs <;> rfl
  · intro i hi
    obtain ⟨x, hx, rfl⟩ := List.mem_map.mp hi
    refine ⟨rfl, sample_of_same_level hfsm ?_⟩
    rw [hlevel, hmode, binarize_tone_level, if_pos (hloud x hx)]

/-! The two ports interleaved -/

/-- A run and the run of its operations that satisfy `on` end related, when each of those keeps the relation on both
sides and each other one on the side that performs it. -/
theorem execAll_filter {on : Instr → Bool} {R : State → State → Prop} {ops : List Instr}
    (hon : ∀ i ∈ ops, on i = true → ∀ s t, R s t → ∃ s' t', exec i s = .next s' ∧ exec i t = .next t' ∧ R s' t')
    (hoff : ∀ i ∈ ops, on i = false → ∀ s t, R s t → ∃ s', exec i s = .next s' ∧ R s' t) {s t s' : State}
    (hR : R s t) (hexec : execAll ops s = .next s') : ∃ t', execAll (ops.filter on) t = .next t' ∧ R s' t' := by
  induction ops generalizing s t with
  | nil =>
    cases hexec
    exact ⟨t, rfl, hR⟩
  | cons i is ih =>
    obtain ⟨honi, hons⟩ := List.forall_mem_cons.mp hon
    obtain ⟨hoffi, hoffs⟩ := List.forall_mem_cons.mp hoff
    cases hi : on i with
    | true =>
      obtain ⟨s1, t1, hs1, ht1, hR1⟩ := honi hi s t hR
      rw [Run.execAll_cons hs1] at hexec
      rw [List.filter_cons_of_pos hi, Run.execAll_cons ht1]
      exact ih hons hoffs hR1 hexec
    | false =>
      obtain ⟨s1, hs1, hR1⟩ := hoffi hi s t hR
      rw [Run.execAll_cons hs1] at hexec
      rw [List.filter_cons_of_neg (by simp [hi])]
      exact ih hons hoffs hR1 hexec

/-- The second state has the first one's M port and the DEMODULATOR `d`. -/
structure SameM (d : Demod) (s t : State) : Prop where
  mod : t.mod = s.mod
  mRsp : t.mRsp = s.mRsp
  hand : t.hand = s.hand
  straps : t.straps = s.straps
  pay : t.pay = s.pay
  dem : t.dem = d

/-- The second state has the first one's D port and the MODULATOR `m`. -/
structure SameD (m : Machine.Modulator) (s t : State) : Prop where
  dem : t.dem = s.dem
  dRsp : t.dRsp = s.dRsp
  straps : t.straps = s.straps
  mod : t.mod = m

theorem sameM_onM {d : Demod} {i : Instr} (hi : i.onM = true) {s t : State} (h : SameM d s t) :
    ∃ s' t', exec i s = .next s' ∧ exec i t = .next t' ∧ SameM d s' t' := by
  obtain ⟨hmod, hmRsp, hhand, hstraps, hpay, hdem⟩ := h
  refine ⟨_, _, exec_onM i s hi, exec_onM i t hi, ?_⟩
  rw [hmod, hstraps, hpay]
  exact ⟨rfl, rfl, by rw [State.answerM_hand, State.answerM_hand, hhand], hstraps, hpay, hdem⟩

theorem sameM_onD {d : Demod} {i : Instr} (hi : i.onD = true) {s t : State} (h : SameM d s t) :
    ∃ s', exec i s = .next s' ∧ SameM d s' t := by
  obtain ⟨hmod, hmRsp, hhand, hstraps, hpay, hdem⟩ := h
  exact ⟨_, exec_onD i s hi, hmod, hmRsp, hhand, hstraps, hpay, hdem⟩

theorem sameD_onD {m : Machine.Modulator} {i : Instr} (hi : i.onD = true) {s t : State} (h : SameD m s t) :
    ∃ s' t', exec i s = .next s' ∧ exec i t = .next t' ∧ SameD m s' t' := by
  obtain ⟨hdem, hdRsp, hstraps, hmod⟩ := h
  refine ⟨_, _, exec_onD i s hi, exec_onD i t hi, ?_⟩
  rw [hdem, hstraps]
  exact ⟨rfl, rfl, hstraps, hmod⟩

theorem sameD_onM {m : Machine.Modulator} {i : Instr} (hi : i.onM = true) {s t : State} (h : SameD m s t) :
    ∃ s', exec i s = .next s' ∧ SameD m s' t := by
  obtain ⟨hdem, hdRsp, hstraps, hmod⟩ := h
  exact ⟨_, exec_onM i s hi, hdem, hdRsp, hstraps, hmod⟩

/-- Settles O54: what each port shares with the run of its own operations is kept by the operations of both. -/
theorem interleavingIsInvisible : Obligations.InterleavingIsInvisible := by
  intro ops s s' hports hexec
  have offM (i : Instr) (hi : i ∈ ops) (h : i.onM = false) : i.onD = true := (hports i hi).resolve_left (by simp [h])
  have offD (i : Instr) (hi : i ∈ ops) (h : i.onD = false) : i.onM = true := (hports i hi).resolve_right (by simp [h])
  refine ⟨?_, ?_⟩
  · obtain ⟨sm, hsm, hmod, hmRsp, hhand, -, -, hdem⟩ := execAll_filter (on := Instr.onM) (R := SameM s.dem)
      (fun i _ hi _ _ => sameM_onM hi) (fun i hmem hi _ _ => sameM_onD (offM i hmem hi))
      ⟨rfl, rfl, rfl, rfl, rfl, rfl⟩ hexec
    exact ⟨sm, hsm, hmod, hmRsp, hhand, hdem⟩
  · obtain ⟨sd, hsd, hdem, hdRsp, -, hmod⟩ := execAll_filter (on := Instr.onD) (R := SameD s.mod)
      (fun i _ hi _ _ => sameD_onD hi) (fun i hmem hi _ _ => sameD_onM (offD i hmem hi)) ⟨rfl, rfl, rfl, rfl⟩ hexec
    exact ⟨sd, hsd, hdem, hdRsp, hmod⟩

/-! Between RESET and a start -/

/-- Neither a start nor RESET (R261). -/
def Inert (i : Instr) : Prop :=
  (∀ mode n d, i ≠ .mStart mode n d) ∧ (∀ mode sens d, i ≠ .dStart mode sens d) ∧ i ≠ .reset

/-- With no sequence, the M port's operations but M_START change nothing and answer no command (R135 to R137). -/
theorem modulator_answer_inert {i : Instr} (hi : Inert i) {m : Machine.Modulator} (hidle : m.fsm = .idle)
    (straps : Config.Straps) (pay : Machine.Memory) : m.answer straps pay i = (m, Cmd.none) := by
  have hrun : m.fsm ≠ .run := by simp [hidle]
  obtain ⟨hstart, -⟩ := hi
  cases i with
  | mStart mode n t => exact absurd rfl (hstart mode n t)
  | mStep => exact Sequence.step_of_ne_run hrun
  | mCancel => exact congrArg (·, Cmd.none) (Modulator.requestCancel_of_ne_run hrun)
  | _ => rfl

/-- With no session, the D port's operations but D_START change nothing and answer Pending (R151, R152, R170). -/
theorem demod_answer_inert {i : Instr} (hi : Inert i) {d : Demod} (hidle : d.fsm = .idle) (straps : Config.Straps) :
    d.answer straps i = (d, .pending) := by
  obtain ⟨-, hstart, -⟩ := hi
  cases i with
  | dStart mode sens t => exact absurd rfl (hstart mode sens t)
  | dSample ts a b =>
    show d.sample straps.tieFreq ts a b = (d, .pending)
    rw [Outcome.sample_of_not_receiving (.inl hidle), hidle]
    rfl
  | dStop => exact congrArg (·, Result.pending) (Session.tearDown_of_not_active (by simp [hidle, DFsm.active]))
  | _ => rfl

/-- One inert operation on an idle block (R261). -/
theorem exec_inert {i : Instr} (hi : Inert i) {s : State} (hdem : s.dem.fsm = .idle) (hmod : s.mod.fsm = .idle) :
    ∃ v, exec i s = .next v ∧ v.dem = s.dem ∧ v.mod = s.mod ∧
      (i.onD = true → v.dRsp = some (DRsp.of s.dem .pending)) ∧
      (i.onM = true → v.mRsp = some ⟨⟨false, .idle, false, 0⟩, .idle, s.mod.err⟩) := by
  rcases port_cases i with hM | hD | rfl | hC
  · obtain ⟨hnD, -, -⟩ := Block.onM_exclusive hM
    have hexec := exec_onM i s hM
    rw [modulator_answer_inert hi hmod] at hexec
    refine ⟨_, hexec, rfl, rfl, by simp [hnD], fun _ => ?_⟩
    rw [State.answerM_mRsp, MRsp.of, hmod]
    rfl
  · obtain ⟨hnM, -, -⟩ := Block.onD_exclusive hD
    have hexec := exec_onD i s hD
    rw [demod_answer_inert hi hdem] at hexec
    exact ⟨_, hexec, rfl, rfl, fun _ => rfl, by simp [hnM]⟩
  · obtain ⟨-, -, hreset⟩ := hi
    exact absurd rfl hreset
  · obtain ⟨hnM, hnD, -⟩ := Block.isCmd_exclusive hC
    obtain ⟨act, hexec⟩ := exec_isCmd i s hC
    exact ⟨_, hexec, rfl, rfl, by simp [hnD], by simp [hnM]⟩

/-- Any inert operations on an idle block (R261). -/
theorem execAll_inert {ops : List Instr} (hops : ∀ i ∈ ops, Inert i) {s : State} (hdem : s.dem.fsm = .idle)
    (hmod : s.mod.fsm = .idle) : ∃ u, execAll ops s = .next u ∧ u.dem = s.dem ∧ u.mod = s.mod := by
  induction ops generalizing s with
  | nil => exact ⟨s, rfl, rfl, rfl⟩
  | cons i is ih =>
    obtain ⟨hi, his⟩ := List.forall_mem_cons.mp hops
    obtain ⟨v, hv, hvdem, hvmod, -⟩ := exec_inert hi hdem hmod
    obtain ⟨u, hu, hudem, humod⟩ := ih his (hvdem ▸ hdem) (hvmod ▸ hmod)
    exact ⟨u, (Run.execAll_cons hv is).trans hu, hudem.trans hvdem, humod.trans hvmod⟩

/-- Settles O56: RESET idles both agents, and inert operations leave them so. -/
theorem inertAfterReset : Obligations.InertAfterReset := by
  refine ⟨fun s t hexec => ?_, fun ops s hdem hmod hops => ?_⟩
  · cases hexec
    exact ⟨rfl, rfl, rfl⟩
  · obtain ⟨u, hu, hudem, humod⟩ := execAll_inert hops hdem hmod
    refine ⟨u, hu, hudem, humod, fun i hi => ?_⟩
    obtain ⟨v, hv, hvdem, hvmod, hD, hM⟩ := exec_inert hi (hudem ▸ hdem) (humod ▸ hmod)
    rw [hudem] at hvdem hD
    rw [humod] at hvmod hM
    exact ⟨v, hv, hvdem, hvmod, hD, hM⟩

end Sys2Proof.Proofs.WholeRun

/-! PROOFS. A transmitted frame is received: the frame search on a buffer that ends in a frame, and a Tone-mode session
fed with the samples of a frame's bits (70_reset_and_hazards.md R287). -/

namespace Sys2Proof.Proofs.Reception

open Sys2Proof Sys2Proof.Machine

/-! The frame search -/

/-- What is found behind the bits in front does not depend on them. -/
theorem bitFind_append_of_eq_some {f pat : Bits} {start i : Nat} (z : Bits) (h : bitFind f pat start = some i) :
    bitFind (z ++ f) pat (z.length + start) = some (z.length + i) := by
  obtain ⟨hstart, hfits, hat, hfirst⟩ := bitFind_some _ _ _ _ h
  refine bitFind_of_least _ _ _ _ (by omega) (by rw [List.length_append]; omega)
    (by rw [bitSub_append_right, hat]) fun j hj hlt => ?_
  obtain ⟨k, rfl⟩ := Nat.exists_eq_add_of_le (show z.length ≤ j by omega)
  rw [bitSub_append_right]
  exact hfirst k (by omega) (by omega)

/-- The bits between a frame's markers are its payload's. -/
theorem frameOf_interior (p : List Byte) : bitSub (frameOf p) 8 (8 * p.length) = p.flatMap bits8 := by
  rw [frameOf, List.append_assoc]
  exact (bitSub_append_right Config.startMarker _ 0 _).trans (by
    rw [bitSub_append_left _ _ _ _ (by rw [flatMap_bits8_length]; omega), ← flatMap_bits8_length]
    simp [bitSub])

/-- A payload of the printable range is decoded whole. -/
theorem decodeBytes_payload {p : Text} (h : ∀ v ∈ p, 1 ≤ v.toNat ∧ v.toNat ≤ 126) :
    decodeBytes (p.flatMap bits8) = p := by
  rw [decodeBytes_flatMap_bits8, List.filter_eq_self]
  intro v hv
  obtain ⟨hlo, hhi⟩ := h v hv
  simp [printable, Config.printLo, Config.printHi, hlo, hhi]

/-- Settles O46: the two markers are the frame's own, and enclose the payload's bits. -/
theorem frameSearchFindsFrame : Obligations.FrameSearchFindsFrame := by
  intro z p hprintable hblank hstart hend
  have hne : p ≠ [] := by
    rintro rfl
    cases hblank
  have hpos := List.length_pos_iff.mpr hne
  have hspan : bitSub (z ++ frameOf p) (z.length + 8) (z.length + (8 + 8 * p.length) - (z.length + 8)) =
      p.flatMap bits8 := by
    rw [bitSub_append_right, ← frameOf_interior p]
    congr 1
    omega
  refine (FrameDecoder.frameSearchFirstPair _ p).mpr ⟨z.length, z.length + (8 + 8 * p.length), hstart,
    bitFind_append_of_eq_some z hend, by omega, by omega, ?_, hblank⟩
  rw [hspan, decodeBytes_payload hprintable]

/-- A frame begins with the first start marker in it. -/
theorem bitFind_frameOf_start (p : List Byte) : bitFind (frameOf p) Config.startMarker 0 = some 0 :=
  bitFind_of_least _ _ _ _ le_rfl (by rw [frameOf_length, startMarker_length]; omega)
    (Encoding.frameOf_startMarker p) fun _ _ h => absurd h (Nat.not_lt_zero _)

/-- No end of the payload, no frame: in a proper part of a frame from its start the search finds nothing. -/
theorem frameSearch_of_proper_prefix {p : List Byte} {g : Bits} (hprefix : g <+: frameOf p)
    (hlen : g.length < 16 + 8 * p.length) (hlong : 8 ≤ g.length)
    (hend : bitFind (frameOf p) Config.endMarker 8 = some (8 + 8 * p.length)) : frameSearch g = none := by
  obtain ⟨rest, hrest⟩ := hprefix
  have inFrame {i : Nat} (h : i + 8 ≤ g.length) : bitSub (frameOf p) i 8 = bitSub g i 8 := by
    rw [← hrest, bitSub_append_left _ _ _ _ h]
  have hstart : bitFind g Config.startMarker 0 = some 0 :=
    bitFind_of_least _ _ _ _ le_rfl (by simpa using hlong)
      ((inFrame (by omega)).symm.trans (Encoding.frameOf_startMarker p)) fun _ _ h => absurd h (Nat.not_lt_zero _)
  refine Option.eq_none_iff_forall_ne_some.mpr fun t hfound => ?_
  obtain ⟨i, j, hi, hj, -⟩ := (FrameDecoder.frameSearchFirstPair g t).mp hfound
  obtain rfl : 0 = i := Option.some.inj (hstart.symm.trans hi)
  obtain ⟨hafter, hfits, hat, -⟩ := bitFind_some _ _ _ _ hj
  obtain ⟨-, -, -, hfirst⟩ := bitFind_some _ _ _ _ hend
  simp only [List.length_cons, List.length_nil] at hfits
  exact hfirst j (by omega) (by omega) ((inFrame (by omega)).trans hat)

/-- The search on a frame finds its payload, when no end marker stands before the frame's own (R287). -/
theorem frameSearch_frameOf {p : Text} (hprintable : ∀ v ∈ p, 1 ≤ v.toNat ∧ v.toNat ≤ 126) (hblank : nonBlank p = true)
    (hend : bitFind (frameOf p) Config.endMarker 8 = some (8 + 8 * p.length)) : frameSearch (frameOf p) = some p :=
  frameSearchFindsFrame [] p hprintable hblank (bitFind_frameOf_start p) hend

/-! A Tone-mode session between two samples -/

/-- The frequency that carries a bit (R133, R178). -/
def bandOf (bit : Bool) : Band := if bit then .f1000 else .f600

/-- A Tone-mode session that has detected the bits `got` and is not complete. -/
structure Receiving (sens : BitVec 7) (got : Bits) (d : Demod) : Prop where
  session : d.fsm = .armed ∨ d.fsm = .accumulating
  mode : d.mode = .tone
  sens : d.sens = sens
  buf : d.buf = got

/-- The session hears a sound of the bit's frequency that began at `ts`. -/
structure InSound (sens : BitVec 7) (got : Bits) (bit : Bool) (ts : BitVec 64) (d : Demod) : Prop
    extends Receiving sens got d where
  level : d.level = some .high
  freq : d.freq = some (bandOf bit)
  tstart : d.tstart = ts

/-- The session hears a silence that began at `ts`. -/
structure InSilence (sens : BitVec 7) (got : Bits) (ts : BitVec 64) (d : Demod) : Prop
    extends Receiving sens got d where
  level : d.level = some .low
  tstart : d.tstart = ts

/-- The session takes a sound at `ts` for a new interval: it has heard nothing, or silence for at least 50 ms. -/
structure Ready (sens : BitVec 7) (got : Bits) (ts : BitVec 64) (d : Demod) : Prop extends Receiving sens got d where
  level : d.level = none ∨ (d.level = some .low ∧ d.tstart.toNat + 50 ≤ ts.toNat)

theorem ready_of_inSilence {sens : BitVec 7} {got : Bits} {since ts : BitVec 64} {d : Demod}
    (h : InSilence sens got since d) (hle : since.toNat + 50 ≤ ts.toNat) : Ready sens got ts d :=
  ⟨h.toReceiving, .inr ⟨h.level, h.tstart ▸ hle⟩⟩

/-! One sample -/

section OneSample

variable {sens : BitVec 7} {got : Bits} {bit : Bool} {d : Demod} {x : ToneSample} {tie : Band}

theorem binarize_of_loud (h : Receiving sens got d) (hloud : x.loud sens) :
    (binarize tie d.mode d.sens x.a x.b).1 = .high := by
  rw [h.mode, h.sens, WholeRun.binarize_tone_level, if_pos hloud]

theorem binarize_of_not_loud (h : Receiving sens got d) (hloud : ¬ x.loud sens) :
    (binarize tie d.mode d.sens x.a x.b).1 = .low := by
  rw [h.mode, h.sens, WholeRun.binarize_tone_level, if_neg hloud]

/-- The dominant frequency of a sample whose larger energy is in the bit's band (R172). -/
theorem binarize_freq_of_bit (h : Receiving sens got d)
    (hbit : if bit then x.a.toNat < x.b.toNat else x.b.toNat < x.a.toNat) :
    (binarize tie d.mode d.sens x.a x.b).2 = some (bandOf bit) := by
  rw [h.mode, (Sample.binarizeExact tie d.sens x.a x.b).2]
  cases bit with
  | true =>
    have hlt : x.a.toNat < x.b.toNat := by simpa using hbit
    simp only [gt_iff_lt, if_neg (not_lt.mpr hlt.le), if_pos hlt]
    rfl
  | false =>
    have hlt : x.b.toNat < x.a.toNat := by simpa using hbit
    simp only [gt_iff_lt, if_pos hlt]
    rfl

/-- In Tone mode a transition pushes a record whose sound carries the bit of its frequency (R178). -/
theorem extractBit_of_tone (hmode : d.mode = .tone) (l : Lvl) (bin : Lvl × Option Band) (ts : BitVec 64) :
    extractBit (Sample.afterTransition d l bin ts).mode (Sample.afterTransition d l bin ts).hist =
      if l = .high then d.freq.map (fun f => decide (f = .f1000)) else none := by
  have hmode' : (Sample.afterTransition d l bin ts).mode = .tone := hmode
  obtain ⟨pre, hpre⟩ := List.getLast?_eq_some_iff.mp (histPush_getLast? d.hist ⟨l, ts - d.tstart, d.freq⟩)
  rw [hmode']
  show extractTone (histPush d.hist _) = _
  rw [hpre, extractTone_concat]

/-- A sound after nothing, or after silence, begins an interval of its frequency and gives no bit (R174, R176, R178). -/
theorem sample_of_sound (h : Ready sens got x.ts d) (hloud : x.loud sens)
    (hbit : if bit then x.a.toNat < x.b.toNat else x.b.toNat < x.a.toNat) :
    ∃ d', d.sample tie x.ts x.a x.b = (d', .pending) ∧ InSound sens got bit x.ts d' := by
  have hhigh := binarize_of_loud (tie := tie) h.toReceiving hloud
  have hfreq := binarize_freq_of_bit (tie := tie) h.toReceiving hbit
  rcases h.level with hnone | ⟨hlow, hle⟩
  · rw [Sample.sample_of_receiving h.session, Sample.senseStage_of_no_level hnone, hhigh, hfreq]
    exact ⟨_, rfl, ⟨h.session, h.mode, h.sens, h.buf⟩, rfl, rfl, rfl⟩
  · rw [Sample.sample_of_accepted h.session hlow (by rw [hhigh]; decide) (by rw [h.mode]; exact hle)]
    have hextract := extractBit_of_tone h.mode .low (binarize tie d.mode d.sens x.a x.b) x.ts
    rcases Outcome.bitStage_outcomes (Sample.afterTransition d .low (binarize tie d.mode d.sens x.a x.b) x.ts) with
      ⟨-, e⟩ | ⟨b, hb, -⟩
    · exact ⟨_, e, ⟨.inr rfl, h.mode, h.sens, h.buf⟩, congrArg some hhigh, hfreq, rfl⟩
    · rw [hextract] at hb
      cases hb

/-- The silence that ends a sound is an accepted transition that yields the sound's bit; stages 5 and 6 then see the
buffer that holds it (R176, R178, R179). -/
theorem sample_of_silence {since : BitVec 64} (h : InSound sens got bit since d) (hsilent : ¬ x.loud sens)
    (hle : since.toNat + 50 ≤ x.ts.toNat) (hroom : got.length < 2000) :
    ∃ d', d.sample tie x.ts x.a x.b = d'.searchStage ∧ InSilence sens (got ++ [bit]) x.ts d' := by
  have hlow := binarize_of_not_loud (tie := tie) h.toReceiving hsilent
  have hle' : d.tstart.toNat + (if d.mode = .level then 30 else 50) ≤ x.ts.toNat := by
    rw [h.tstart, h.mode]
    exact hle
  have hextract : extractBit (Sample.afterTransition d .high (binarize tie d.mode d.sens x.a x.b) x.ts).mode
      (Sample.afterTransition d .high (binarize tie d.mode d.sens x.a x.b) x.ts).hist = some bit := by
    rw [extractBit_of_tone h.mode, h.freq]
    cases bit <;> rfl
  have hbuf : bufAppend d.buf bit = got ++ [bit] := by
    rw [h.buf, Memory.bufAppend_of_lt hroom]
  rw [Sample.sample_of_accepted h.session h.level (by rw [hlow]; decide) hle', Sample.bitStage_of_bit hextract]
  exact ⟨_, rfl, ⟨.inr rfl, h.mode, h.sens, hbuf⟩, congrArg some hlow, rfl⟩

/-- With no frame in BUF, the silence leaves the session receiving (R204, R206). -/
theorem inSilence_searchStage {ts : BitVec 64} (h : InSilence sens got ts d)
    (hnone : got.length ≤ 50 ∨ frameSearch got = none) : InSilence sens got ts d.searchStage.1 := by
  rw [Sample.searchStage_of_not_found (by rw [h.buf]; exact hnone)]
  rcases d.previewStage_cases with ⟨p, -, -, -, e⟩ | ⟨-, e⟩ <;> rw [e]
  · exact ⟨⟨h.session, h.mode, h.sens, h.buf⟩, h.level, h.tstart⟩
  · exact h

/-- Inside a sound a further sound changes nothing (R175, R267). -/
theorem sample_in_sound {ts : BitVec 64} (h : InSound sens got bit ts d) (hloud : x.loud sens) :
    d.sample tie x.ts x.a x.b = (d, .pending) :=
  WholeRun.sample_of_same_level h.session (by rw [h.level, binarize_of_loud h.toReceiving hloud])

/-- Inside a silence a further silence changes nothing (R175). -/
theorem sample_in_silence {ts : BitVec 64} (h : InSilence sens got ts d) (hsilent : ¬ x.loud sens) :
    d.sample tie x.ts x.a x.b = (d, .pending) :=
  WholeRun.sample_of_same_level h.session (by rw [h.level, binarize_of_not_loud h.toReceiving hsilent])

end OneSample

/-! One slot -/

/-- A sample and further ones that leave what it leaves; with the same answer to all of them, that is the last one. -/
theorem execAll_samples {s : State} {x : ToneSample} {xs : List ToneSample} {d : Demod} {r0 r : Result}
    (hfirst : s.dem.sample s.straps.tieFreq x.ts x.a x.b = (d, r0))
    (hmore : ∀ y ∈ xs, d.sample s.straps.tieFreq y.ts y.a y.b = (d, r)) :
    ∃ s', execAll ((x :: xs).map ToneSample.op) s = .next s' ∧ s'.dem = d ∧
      (r0 = r → s'.dRsp = some (DRsp.of d r)) := by
  have hexec : exec x.op s = .next (s.answerD (d, r0)) := by
    rw [ToneSample.op, exec_dSample, hfirst]
  have hrest : execAll (xs.map ToneSample.op) (s.answerD (d, r0)) = _ := WholeRun.execAll_of_unchanged (r := r)
    fun i hi => by
      obtain ⟨y, hy, rfl⟩ := List.mem_map.mp hi
      exact ⟨rfl, hmore y hy⟩
  refine ⟨_, (Run.execAll_cons hexec _).trans hrest, ?_, ?_⟩
  · split_ifs <;> rfl
  · rintro rfl
    split_ifs <;> rfl

section Slot

variable {sens : BitVec 7} {got : Bits} {bit : Bool} {s : State} {y : ToneSlot}

/-- The sound of a slot is heard as one interval of the bit's frequency (R267). -/
theorem sound_heard (h : Ready sens got y.sound.ts s.dem) (hy : y.presents sens bit) :
    ∃ s', execAll ((y.sound :: y.soundMore).map ToneSample.op) s = .next s' ∧
      InSound sens got bit y.sound.ts s'.dem := by
  obtain ⟨hbit, hloud, hloudMore, -⟩ := hy
  obtain ⟨d, hfirst, hin⟩ := sample_of_sound (tie := s.straps.tieFreq) h hloud hbit
  obtain ⟨s', hexec, rfl, -⟩ := execAll_samples hfirst fun z hz => sample_in_sound hin (hloudMore z hz)
  exact ⟨s', hexec, hin⟩

/-- The silence of a slot adds its bit; while there is no frame in BUF the session goes on. -/
theorem silence_heard (h : InSound sens got bit y.sound.ts s.dem) (hy : y.presents sens bit) (hroom : got.length < 2000)
    (hnone : (got ++ [bit]).length ≤ 50 ∨ frameSearch (got ++ [bit]) = none) :
    ∃ s', execAll ((y.silence :: y.silenceMore).map ToneSample.op) s = .next s' ∧
      InSilence sens (got ++ [bit]) y.silence.ts s'.dem := by
  obtain ⟨-, -, -, hsilent, hsilentMore, hle⟩ := hy
  obtain ⟨d, hfirst, hin⟩ := sample_of_silence (tie := s.straps.tieFreq) h hsilent hle hroom
  have hin' := inSilence_searchStage hin hnone
  obtain ⟨s', hexec, hdem, -⟩ := execAll_samples hfirst fun z hz => sample_in_silence hin' (hsilentMore z hz)
  exact ⟨s', hexec, hdem ▸ hin'⟩

/-- The session is complete with the text `p`, and has just answered it. -/
def Completed (p : Text) (s : State) : Prop :=
  s.dem.fsm = .complete ∧ s.dem.final = p ∧ s.dRsp = some (DRsp.of s.dem (.complete p))

/-- With a frame in BUF the silence of a slot completes the session, and its further samples answer the text again. -/
theorem silence_completes (h : InSound sens got bit y.sound.ts s.dem) (hy : y.presents sens bit)
    (hroom : got.length < 2000) (hlen : 50 < (got ++ [bit]).length) {p : Text}
    (hfound : frameSearch (got ++ [bit]) = some p) :
    ∃ s', execAll ((y.silence :: y.silenceMore).map ToneSample.op) s = .next s' ∧ Completed p s' := by
  obtain ⟨-, -, -, hsilent, hsilentMore, hle⟩ := hy
  obtain ⟨d, hfirst, hin⟩ := sample_of_silence (tie := s.straps.tieFreq) h hsilent hle hroom
  rw [Sample.searchStage_of_found (by rw [hin.buf]; exact hlen) (by rw [hin.buf]; exact hfound)] at hfirst
  obtain ⟨s', hexec, hdem, hrsp⟩ := execAll_samples (xs := y.silenceMore) (r := .complete p) hfirst fun z hz =>
    Outcome.sample_of_not_receiving (.inr (.inr rfl)) ..
  exact ⟨s', hexec, by rw [hdem], by rw [hdem], by rw [hrsp rfl, hdem]⟩

theorem ops_eq (y : ToneSlot) :
    y.ops = (y.sound :: y.soundMore).map ToneSample.op ++ (y.silence :: y.silenceMore).map ToneSample.op := by
  rw [ToneSlot.ops, ← List.cons_append, List.map_append]

end Slot

/-! A whole frame -/

/-- The slots of the bits that are missing from a frame complete the session with its payload (R287). -/
theorem slots_received {p : Text} (hmin : 5 ≤ p.length) (hmax : p.length ≤ 248)
    (hprintable : ∀ v ∈ p, 1 ≤ v.toNat ∧ v.toNat ≤ 126) (hblank : nonBlank p = true)
    (hend : bitFind (frameOf p) Config.endMarker 8 = some (8 + 8 * p.length)) {sens : BitVec 7}
    {slots : List ToneSlot} {bits : Bits} (hslots : List.Forall₂ (ToneSlot.presents sens) slots bits) {got : Bits}
    {s : State} (hframe : got ++ bits = frameOf p) (hmissing : bits ≠ [])
    (hspaced : List.IsChain ToneSlot.spaced slots) (hready : ∀ y ∈ slots.head?, Ready sens got y.sound.ts s.dem) :
    ∃ s', execAll (slots.flatMap ToneSlot.ops) s = .next s' ∧ Completed p s' := by
  induction hslots generalizing got s with
  | nil => exact absurd rfl hmissing
  | @cons y bit slots bits hy hslots ih =>
    have hlen : got.length + (bits.length + 1) = 16 + 8 * p.length := by
      rw [← frameOf_length, ← hframe, List.length_append, List.length_cons]
    obtain ⟨s1, hexec1, hsound⟩ := sound_heard (hready y rfl) hy
    rw [List.flatMap_cons, ops_eq, List.append_assoc, Run.execAll_append hexec1]
    cases bits with
    | nil =>
      obtain rfl : slots = [] := List.forall₂_nil_right_iff.mp hslots
      rw [List.flatMap_nil, List.append_nil]
      refine silence_completes hsound hy (by simp at hlen; omega) ?_ ?_
      · rw [hframe, frameOf_length]
        omega
      · rw [hframe]
        exact frameSearch_frameOf hprintable hblank hend
    | cons next bits =>
      have hframe' : (got ++ [bit]) ++ next :: bits = frameOf p := by rw [← hframe, List.append_assoc]; rfl
      have hnone : (got ++ [bit]).length ≤ 50 ∨ frameSearch (got ++ [bit]) = none := by
        refine (Nat.lt_or_ge 50 (got ++ [bit]).length).symm.imp id fun hlong => ?_
        exact frameSearch_of_proper_prefix ⟨_, hframe'⟩ (by simp at hlen ⊢; omega) (by omega) hend
      obtain ⟨s2, hexec2, hsilence⟩ := silence_heard hsound hy (by omega) hnone
      rw [Run.execAll_append hexec2]
      obtain ⟨hgap, hspaced'⟩ := List.isChain_cons.mp hspaced
      exact ih hframe' (List.cons_ne_nil _ _) hspaced' fun z hz => ready_of_inSilence hsilence (hgap z hz)

/-- Samples of silence before a frame, or none, leave a fresh session ready for its first sound (R174, R175). -/
theorem before_heard {s : State} {sens : BitVec 7} {before : List ToneSample} (hreceiving : Receiving sens [] s.dem)
    (hlevel : s.dem.level = none) (hsilent : ∀ x ∈ before, ¬ x.loud sens) :
    ∃ s', execAll (before.map ToneSample.op) s = .next s' ∧
      ∀ ts : BitVec 64, (∀ x ∈ before.head?, x.ts.toNat + 50 ≤ ts.toNat) → Ready sens [] ts s'.dem := by
  cases before with
  | nil => exact ⟨s, rfl, fun ts _ => ⟨hreceiving, .inl hlevel⟩⟩
  | cons x xs =>
    obtain ⟨hx, hxs⟩ := List.forall_mem_cons.mp hsilent
    have hlow := binarize_of_not_loud (tie := s.straps.tieFreq) hreceiving hx
    have hfirst := Sample.senseStage_of_no_level hlevel s.straps.tieFreq x.ts x.a x.b
    rw [← Sample.sample_of_receiving hreceiving.session] at hfirst
    have hin : InSilence sens [] x.ts (s.dem.begin (binarize s.straps.tieFreq s.dem.mode s.dem.sens x.a x.b).1
        (binarize s.straps.tieFreq s.dem.mode s.dem.sens x.a x.b).2 x.ts) :=
      ⟨⟨hreceiving.session, hreceiving.mode, hreceiving.sens, hreceiving.buf⟩, congrArg some hlow, rfl⟩
    obtain ⟨s', hexec, hdem, -⟩ := execAll_samples hfirst fun z hz => sample_in_silence hin (hxs z hz)
    exact ⟨s', hexec, fun ts hts => ready_of_inSilence (hdem ▸ hin) (hts x rfl)⟩

/-- Settles O50: the silence before the frame, then its slots one by one. -/
theorem toneFrameReceived : Obligations.ToneFrameReceived := by
  intro p before slots s hmin hmax hprintable hblank hend hinv harmed hlevel hmode hbefore hgap hslots hspaced
  obtain ⟨-, hbuf, -⟩ := hinv.armed harmed
  obtain ⟨s1, hexec, hready⟩ := before_heard ⟨.inl harmed, hmode, rfl, hbuf⟩ hlevel hbefore
  rw [Run.execAll_append hexec]
  exact slots_received hmin hmax hprintable hblank hend hslots (List.nil_append _)
    (List.ne_nil_of_length_pos (by rw [frameOf_length]; omega)) hspaced
    fun y hy => hready _ fun x hx => hgap x hx y hy

end Sys2Proof.Proofs.Reception
